-- ==== Sys2Proof/Word.lean ====
section
/-!
DEFINITION. The two value types of the machine: the 16-bit word of rule R10 and the 8-bit character of
rule R37.
-/

namespace Sys2Proof

/-- A 16-bit value: a register, a memory cell, an address or an instruction word (R7, R10). -/
abbrev Word := BitVec 16

/-- A character of the console, one byte (R37). -/
abbrev Byte := BitVec 8

/-- A 3-bit register field, used directly as the index of R0 to R7 (R12, R20). -/
abbrev RegIdx := BitVec 3

end Sys2Proof
end

