-- ==== Sys2Proof/Config.lean ====
section
/-!
DEFINITION. The parameters of rule R8 as plain data, the value an unlisted memory cell reads as, and the
constants without a body that stand for what the spec leaves open (log entries 2, 3, 4, 5, 11, 12).
-/

namespace Sys2Proof

/-- The condition code: exactly one of NEGATIVE, ZERO, POSITIVE (R28). -/
inductive Cond where
  | n
  | z
  | p
deriving DecidableEq, Repr

/-- The parameter `JSRR_BASE_READ` of R134: when JSRR reads its base register. -/
inductive JsrrBaseRead where
  /-- R7 is written first, so `JSRR R7` reads the new R7 (the default). -/
  | afterLink
  /-- The base register is read before R7 is written. -/
  | beforeLink
deriving DecidableEq, Repr

/-- The parameter `OPCODE` of R8: the 4-bit value of each opcode. -/
structure OpcodeMap where
  br : BitVec 4
  add : BitVec 4
  ld : BitVec 4
  st : BitVec 4
  jsr : BitVec 4
  and : BitVec 4
  ldr : BitVec 4
  str : BitVec 4
  rti : BitVec 4
  not : BitVec 4
  ldi : BitVec 4
  sti : BitVec 4
  jmp : BitVec 4
  res : BitVec 4
  lea : BitVec 4
  trap : BitVec 4
deriving DecidableEq, Repr

/-- The parameter `TRAPVEC` of R8: the vector of each service routine. -/
structure TrapVectors where
  getc : BitVec 8
  out : BitVec 8
  puts : BitVec 8
  input : BitVec 8
  putsp : BitVec 8
  halt : BitVec 8
deriving DecidableEq, Repr

/-- The parameters of R8 that a running machine consults.
They are fixed for a run (R42): no step changes them. -/
structure Params where
  /-- `OPCODE` (R85). -/
  opcodeMap : OpcodeMap
  /-- `TRAPVEC` (R162). -/
  trapVec : TrapVectors
  /-- `KBSR_ADDR`, the address of the keyboard-status cell (R39). -/
  kbsrAddr : Word
  /-- `KBDR_ADDR`, the address of the keyboard-data cell (R39). -/
  kbdrAddr : Word
  /-- `EOF_WORD`, what a consumed character is after input has ended (R37). -/
  eofWord : Word
  /-- `TRAP_LINKS_R7`, whether TRAP writes the return address to R7 (R161). -/
  trapLinksR7 : Bool
  /-- `JSRR_BASE_READ` (R134). -/
  jsrrBaseRead : JsrrBaseRead
  /-- `STRICT_TRAP`, whether an unrecognized trap vector aborts (R172). -/
  strictTrap : Bool
  /-- `IN_PROMPT`, the bytes IN puts before it reads (R167). -/
  inPrompt : List Byte
  /-- `HALT_NOTICE`, the bytes HALT puts (R169). -/
  haltNotice : List Byte
  /-- Which of two rules that contradict each other holds of a stop inside HALT's notice: true where the halt
  flag is set before the notice (R169, R16), false where it is set only together with HALTED (R35). The spec
  settles neither, so both are admitted (log entry 11). -/
  haltFlagEarly : Bool
  /-- Which of two rules that contradict each other holds of a TRAP that aborts in strict mode: true where it
  links R7 first as every TRAP does (R160, R161), false where it aborts before any effect (R194). The spec
  settles neither, so both are admitted (log entry 12). -/
  strictTrapLinks : Bool
deriving DecidableEq, Repr

/-- The constraint on the keyboard's addresses: the two cells are distinct (R64). That on the two tables is
`Params.tablesWf` (WellFormed.lean). -/
abbrev Params.wf (p : Params) : Prop := p.kbsrAddr ≠ p.kbdrAddr

/-- What a memory cell that is not listed reads as: `INIT_MEM` at every address.
DESIGN CHOICE (log entry 2): R51 leaves `INIT_MEM` open. -/
def Config.unlistedCell : Word := 0x0000#16

/-- FREE VALUE (log entry 5): the draw of R37, whether a poll made after input has ended reports a
pending character; the argument counts the draws made before. -/
opaque Config.pollDraw : Nat → Bool

/-- OPEN parameter `TRAP_LINKS_R7` (R161) of the machine that `State.reset` starts (log entry 4). -/
opaque Config.trapLinksR7 : Bool

/-- OPEN parameter `HALT_NOTICE` (R169) of the machine that `State.reset` starts (log entry 4). -/
opaque Config.haltNotice : List Byte

/-- Which rule holds of a stop inside HALT's notice, on the machine that `State.reset` starts (log entry 11). -/
opaque Config.haltFlagEarly : Bool

/-- Which rule holds of a strict abort of TRAP, on the machine that `State.reset` starts (log entry 12). -/
opaque Config.strictTrapLinks : Bool

end Sys2Proof
end

