-- ==== Sys2Proof/Syntax.lean ====
section
/-!
DEFINITION. The instructions: one constructor of `Instr` per row of spec/opcode_table.json, its fields at
the widths of rules R82 and R87, and the sixteen opcodes of rule R85.
-/

namespace Sys2Proof

/-- The sixteen operations the opcode field selects (R85). -/
inductive Opcode where
  | br
  | add
  | ld
  | st
  | jsr
  | and
  | ldr
  | str
  | rti
  | not
  | ldi
  | sti
  | jmp
  | res
  | lea
  | trap
deriving DecidableEq, Repr

/-- The sixteen, each once. -/
def Opcode.all : List Opcode :=
  [.br, .add, .ld, .st, .jsr, .and, .ldr, .str, .rti, .not, .ldi, .sti, .jmp, .res, .lea, .trap]

/-- The six service routines a trap vector can select (R162). -/
inductive Service where
  | getc
  | out
  | puts
  | input
  | putsp
  | halt
deriving DecidableEq, Repr

/-- The six, each once. -/
def Service.all : List Service := [.getc, .out, .puts, .input, .putsp, .halt]

/-- An instruction (R94). Bits the core does not read (R90) are no part of it. -/
inductive Instr where
  /-- ADD, register mode (R120). -/
  | addReg (dr sr1 sr2 : RegIdx)
  /-- ADD, immediate mode (R121). -/
  | addImm (dr sr1 : RegIdx) (imm5 : BitVec 5)
  /-- AND, register mode (R122). -/
  | andReg (dr sr1 sr2 : RegIdx)
  /-- AND, immediate mode (R123). -/
  | andImm (dr sr1 : RegIdx) (imm5 : BitVec 5)
  /-- NOT (R124). -/
  | not (dr sr : RegIdx)
  /-- BR, with `nzp` = bits 11-9 (R130). -/
  | br (nzp : BitVec 3) (off : BitVec 9)
  /-- JMP, and RET as `JMP R7` (R132). -/
  | jmp (base : RegIdx)
  /-- JSR, bit 11 = 1 (R133). -/
  | jsr (off : BitVec 11)
  /-- JSRR, bit 11 = 0 (R134). -/
  | jsrr (base : RegIdx)
  /-- LD (R140). -/
  | ld (dr : RegIdx) (off : BitVec 9)
  /-- LDI (R141). -/
  | ldi (dr : RegIdx) (off : BitVec 9)
  /-- LDR (R142). -/
  | ldr (dr base : RegIdx) (off : BitVec 6)
  /-- LEA (R143). -/
  | lea (dr : RegIdx) (off : BitVec 9)
  /-- ST (R150). -/
  | st (sr : RegIdx) (off : BitVec 9)
  /-- STI (R151). -/
  | sti (sr : RegIdx) (off : BitVec 9)
  /-- STR (R152). -/
  | str (sr base : RegIdx) (off : BitVec 6)
  /-- TRAP, the generic row: from a word, a vector that selects no service routine (R160, R172). -/
  | trap (vect : BitVec 8)
  /-- TRAP x20, GETC (R163). -/
  | trapGetc
  /-- TRAP x21, OUT (R164). -/
  | trapOut
  /-- TRAP x22, PUTS (R166). -/
  | trapPuts
  /-- TRAP x23, IN (R167). -/
  | trapIn
  /-- TRAP x24, PUTSP (R168). -/
  | trapPutsp
  /-- TRAP x25, HALT (R169). -/
  | trapHalt
  /-- RTI, undefined: aborts (R181). -/
  | rti
  /-- RES, undefined: aborts (R180). -/
  | res
deriving DecidableEq, Repr

/-- The opcode of an instruction (R85, R112). -/
def Instr.opcode : Instr → Opcode
  | .addReg _ _ _ => .add
  | .addImm _ _ _ => .add
  | .andReg _ _ _ => .and
  | .andImm _ _ _ => .and
  | .not _ _ => .not
  | .br _ _ => .br
  | .jmp _ => .jmp
  | .jsr _ => .jsr
  | .jsrr _ => .jsr
  | .ld _ _ => .ld
  | .ldi _ _ => .ldi
  | .ldr _ _ _ => .ldr
  | .lea _ _ => .lea
  | .st _ _ => .st
  | .sti _ _ => .sti
  | .str _ _ _ => .str
  | .trap _ => .trap
  | .trapGetc => .trap
  | .trapOut => .trap
  | .trapPuts => .trap
  | .trapIn => .trap
  | .trapPutsp => .trap
  | .trapHalt => .trap
  | .rti => .rti
  | .res => .res

end Sys2Proof
end

