-- ==== Sys2Proof/WellFormed.lean ====
section
/-!
DEFINITION. Which tables OPCODE and TRAPVEC of R8 are maps of distinct values, and which terms of `Instr`
some instruction word stands for under a table of vectors. Every field has its own width in `Instr`, so the
one check on an instruction is that the generic TRAP row does not carry the vector of a service routine,
which has a row of its own (rules R92, R94, R162).
-/

namespace Sys2Proof

/-- The value of an opcode (R85). -/
def OpcodeMap.bits (m : OpcodeMap) : Opcode → BitVec 4
  | .br => m.br
  | .add => m.add
  | .ld => m.ld
  | .st => m.st
  | .jsr => m.jsr
  | .and => m.and
  | .ldr => m.ldr
  | .str => m.str
  | .rti => m.rti
  | .not => m.not
  | .ldi => m.ldi
  | .sti => m.sti
  | .jmp => m.jmp
  | .res => m.res
  | .lea => m.lea
  | .trap => m.trap

/-- The sixteen values are distinct, so that they are all the values of the opcode field (R81). -/
def OpcodeMap.wf (m : OpcodeMap) : Bool := decide (Opcode.all.map m.bits).Nodup

/-- The vector of a service routine (R162). -/
def TrapVectors.vector (tv : TrapVectors) : Service → BitVec 8
  | .getc => tv.getc
  | .out => tv.out
  | .puts => tv.puts
  | .input => tv.input
  | .putsp => tv.putsp
  | .halt => tv.halt

/-- The six vectors are distinct. -/
def TrapVectors.wf (tv : TrapVectors) : Bool := decide (Service.all.map tv.vector).Nodup

/-- The service routine a vector selects; none for an unrecognized vector (R92, R160). -/
def TrapVectors.serviceOf (tv : TrapVectors) (v : BitVec 8) : Option Service :=
  Service.all.find? fun k => tv.vector k == v

/-- Both tables of the parameters are maps of distinct values. -/
abbrev Params.tablesWf (p : Params) : Prop := p.opcodeMap.wf = true ∧ p.trapVec.wf = true

/-- A well-formed instruction is one that some word decodes to. -/
def Instr.wf (tv : TrapVectors) : Instr → Bool
  | .addReg _ _ _ => true
  | .addImm _ _ _ => true
  | .andReg _ _ _ => true
  | .andImm _ _ _ => true
  | .not _ _ => true
  | .br _ _ => true
  | .jmp _ => true
  | .jsr _ => true
  | .jsrr _ => true
  | .ld _ _ => true
  | .ldi _ _ => true
  | .ldr _ _ _ => true
  | .lea _ _ => true
  | .st _ _ => true
  | .sti _ _ => true
  | .str _ _ _ => true
  | .trap v => (tv.serviceOf v).isNone
  | .trapGetc => true
  | .trapOut => true
  | .trapPuts => true
  | .trapIn => true
  | .trapPutsp => true
  | .trapHalt => true
  | .rti => true
  | .res => true

end Sys2Proof
end

