-- ==== Sys2Proof/Decode.lean ====
section
/-!
DEFINITION. The values of the configuration tables OPCODE and TRAPVEC of rule R8, the decoder (total on words,
rule R94: no word is refused, the undefined opcodes decode to RES and RTI) and the encoder written from the
same format table (rule R86), both for any two tables, and the host's entry point `decodeTableWord`.
-/

namespace Sys2Proof

/-- The table OPCODE (R85; log entry 6): the LC-3 map. -/
def OpcodeMap.lc3 : OpcodeMap where
  br := 0x0#4
  add := 0x1#4
  ld := 0x2#4
  st := 0x3#4
  jsr := 0x4#4
  and := 0x5#4
  ldr := 0x6#4
  str := 0x7#4
  rti := 0x8#4
  not := 0x9#4
  ldi := 0xA#4
  sti := 0xB#4
  jmp := 0xC#4
  res := 0xD#4
  lea := 0xE#4
  trap := 0xF#4

/-- The table TRAPVEC (R162; log entry 6). -/
def TrapVectors.lc3 : TrapVectors where
  getc := 0x20#8
  out := 0x21#8
  puts := 0x22#8
  input := 0x23#8
  putsp := 0x24#8
  halt := 0x25#8

/-- The opcode whose value the opcode field holds (R85, R112). A table of sixteen distinct values leaves no
value of the field over, so TRAP answers for no other than its own. -/
def OpcodeMap.opcodeOf (m : OpcodeMap) (b : BitVec 4) : Opcode :=
  (Opcode.all.find? fun o => m.bits o == b).getD .trap

/-- Bits 15-12 (R81). -/
def fieldOpcode (w : Word) : BitVec 4 := w.extractLsb' 12 4
/-- Bits 11-9: DR, SR of a store, or `nzp` (R82, R84). -/
def fieldDr (w : Word) : BitVec 3 := w.extractLsb' 9 3
/-- Bits 8-6: SR1, SR or BaseR (R82). -/
def fieldSr1 (w : Word) : BitVec 3 := w.extractLsb' 6 3
/-- Bits 2-0: SR2 (R83). -/
def fieldSr2 (w : Word) : BitVec 3 := w.extractLsb' 0 3
/-- Bits 4-0: `imm5` (R82). -/
def fieldImm5 (w : Word) : BitVec 5 := w.extractLsb' 0 5
/-- Bits 5-0: `offset6` (R82). -/
def fieldOffset6 (w : Word) : BitVec 6 := w.extractLsb' 0 6
/-- Bits 8-0: `PCoffset9` (R82). -/
def fieldPcOffset9 (w : Word) : BitVec 9 := w.extractLsb' 0 9
/-- Bits 10-0: `PCoffset11` (R82). -/
def fieldPcOffset11 (w : Word) : BitVec 11 := w.extractLsb' 0 11
/-- Bits 7-0: `trapvect8` (R82). -/
def fieldTrapVect8 (w : Word) : BitVec 8 := w.extractLsb' 0 8
/-- Bit 5: 1 selects the immediate mode of ADD and AND (R83; log entry 6). -/
def immediateMode (w : Word) : Bool := w.getLsbD 5
/-- Bit 11: 1 selects JSR, 0 selects JSRR (R89). -/
def longMode (w : Word) : Bool := w.getLsbD 11

/-- The instruction of a service routine's row. -/
def Service.instr : Service → Instr
  | .getc => .trapGetc
  | .out => .trapOut
  | .puts => .trapPuts
  | .input => .trapIn
  | .putsp => .trapPutsp
  | .halt => .trapHalt

/-- The TRAP instruction a vector selects (R92, R112). -/
def trapOfVector (tv : TrapVectors) (v : BitVec 8) : Instr :=
  match tv.serviceOf v with
  | some k => k.instr
  | none => .trap v

/-- The decoder under the tables OPCODE and TRAPVEC: every word selects exactly one instruction (R94). -/
def decodeWith (m : OpcodeMap) (tv : TrapVectors) (w : Word) : Instr :=
  match m.opcodeOf (fieldOpcode w) with
  | .br => .br (fieldDr w) (fieldPcOffset9 w)
  | .add =>
    if immediateMode w then .addImm (fieldDr w) (fieldSr1 w) (fieldImm5 w)
    else .addReg (fieldDr w) (fieldSr1 w) (fieldSr2 w)
  | .ld => .ld (fieldDr w) (fieldPcOffset9 w)
  | .st => .st (fieldDr w) (fieldPcOffset9 w)
  | .jsr => if longMode w then .jsr (fieldPcOffset11 w) else .jsrr (fieldSr1 w)
  | .and =>
    if immediateMode w then .andImm (fieldDr w) (fieldSr1 w) (fieldImm5 w)
    else .andReg (fieldDr w) (fieldSr1 w) (fieldSr2 w)
  | .ldr => .ldr (fieldDr w) (fieldSr1 w) (fieldOffset6 w)
  | .str => .str (fieldDr w) (fieldSr1 w) (fieldOffset6 w)
  | .rti => .rti
  | .not => .not (fieldDr w) (fieldSr1 w)
  | .ldi => .ldi (fieldDr w) (fieldPcOffset9 w)
  | .sti => .sti (fieldDr w) (fieldPcOffset9 w)
  | .jmp => .jmp (fieldSr1 w)
  | .res => .res
  | .lea => .lea (fieldDr w) (fieldPcOffset9 w)
  | .trap => trapOfVector tv (fieldTrapVect8 w)

/-- The decoder under the tables of R85 and R162. -/
def decode (w : Word) : Instr := decodeWith OpcodeMap.lc3 TrapVectors.lc3 w

/-- The format with one 12-bit rest: bits 15-12 and 11-0 (R86). -/
def format12 (op : BitVec 4) (rest : BitVec 12) : Word := op ++ rest

/-- The format with a register or condition field: bits 15-12, 11-9 and 8-0 (R86). -/
def format39 (op : BitVec 4) (f : BitVec 3) (off : BitVec 9) : Word := op ++ f ++ off

/-- The format with two register fields: bits 15-12, 11-9, 8-6 and 5-0 (R86). -/
def format336 (op : BitVec 4) (f g : BitVec 3) (low : BitVec 6) : Word := op ++ f ++ g ++ low

/-- Bits 5-0 of the register mode of ADD and AND: bit 5 is 0, bits 4-3 are conventionally 00 (R86). -/
def registerOperand (sr2 : RegIdx) : BitVec 6 := 0b000#3 ++ sr2

/-- Bits 5-0 of the immediate mode of ADD and AND: bit 5 is 1 (R86). -/
def immediateOperand (imm5 : BitVec 5) : BitVec 6 := 1#1 ++ imm5

/-- Bits 11-0 of JSR: bit 11 is 1 (R86). -/
def longOffset (off : BitVec 11) : BitVec 12 := 1#1 ++ off

/-- Bits 11-0 of TRAP: bits 11-8 are conventionally 0000 (R86). -/
def trapOperand (v : BitVec 8) : BitVec 12 := 0x0#4 ++ v

/-- The conventional word of an instruction (R86); unused bits take their conventional values, and zero
for RTI and RES, whose bits 11-0 have none. -/
def encodeWith (m : OpcodeMap) (tv : TrapVectors) : Instr → Word
  | .addReg dr sr1 sr2 => format336 m.add dr sr1 (registerOperand sr2)
  | .addImm dr sr1 imm5 => format336 m.add dr sr1 (immediateOperand imm5)
  | .andReg dr sr1 sr2 => format336 m.and dr sr1 (registerOperand sr2)
  | .andImm dr sr1 imm5 => format336 m.and dr sr1 (immediateOperand imm5)
  | .not dr sr => format336 m.not dr sr 0b111111#6
  | .br nzp off => format39 m.br nzp off
  | .jmp base => format336 m.jmp 0b000#3 base 0b000000#6
  | .jsr off => format12 m.jsr (longOffset off)
  | .jsrr base => format336 m.jsr 0b000#3 base 0b000000#6
  | .ld dr off => format39 m.ld dr off
  | .ldi dr off => format39 m.ldi dr off
  | .ldr dr base off => format336 m.ldr dr base off
  | .lea dr off => format39 m.lea dr off
  | .st sr off => format39 m.st sr off
  | .sti sr off => format39 m.sti sr off
  | .str sr base off => format336 m.str sr base off
  | .trap v => format12 m.trap (trapOperand v)
  | .trapGetc => format12 m.trap (trapOperand tv.getc)
  | .trapOut => format12 m.trap (trapOperand tv.out)
  | .trapPuts => format12 m.trap (trapOperand tv.puts)
  | .trapIn => format12 m.trap (trapOperand tv.input)
  | .trapPutsp => format12 m.trap (trapOperand tv.putsp)
  | .trapHalt => format12 m.trap (trapOperand tv.halt)
  | .rti => format12 m.rti 0x000#12
  | .res => format12 m.res 0x000#12

/-- The encoder under the tables of R85 and R162. -/
def encode (i : Instr) : Word := encodeWith OpcodeMap.lc3 TrapVectors.lc3 i

/-- The instruction read from a word numbered as spec/opcode_table.json numbers it; an instruction is one
16-bit word (R80), so more than 16 bits are none. -/
def decodeTableWord (nbits w : Nat) : Option Instr :=
  if nbits ≤ 16 then some (decode (BitVec.ofNat 16 w)) else none

end Sys2Proof
end

