-- ==== Sys2Proof/Machine/Defaults.lean ====
section
/-!
DEFINITION. The values `State.reset` takes for the parameters and the reset values of rules R8 and R42:
the spec's default where it gives one, and otherwise a value that the assumption log names.
-/

namespace Sys2Proof.Machine

/-- `PC_START`, default 0x3000 (R27). -/
def defaultPcStart : Word := 0x3000#16

/-- `INIT_COND`. DESIGN CHOICE (log entry 1): R32 leaves it open. -/
def defaultCond : Cond := .z

/-- `INIT_GPR`, the same for the eight registers. DESIGN CHOICE (log entry 1): R22 leaves it open. -/
def defaultGpr : Word := 0x0000#16

/-- The parameters of the machine at reset: the defaults of R8, and for those that have none the
constants of Config (log entries 4, 11, 12). -/
def defaultParams : Params where
  opcodeMap := OpcodeMap.lc3
  trapVec := TrapVectors.lc3
  kbsrAddr := 0xFE00#16
  kbdrAddr := 0xFE02#16
  eofWord := 0xFFFF#16
  trapLinksR7 := Config.trapLinksR7
  jsrrBaseRead := .afterLink
  strictTrap := false
  inPrompt := []
  haltNotice := Config.haltNotice
  haltFlagEarly := Config.haltFlagEarly
  strictTrapLinks := Config.strictTrapLinks

end Sys2Proof.Machine
end

