-- ==== Sys2Proof/Machine/State.lean ====
section
/-!
DEFINITION. The state of the machine as plain data (rule R42), the reasons a step can stop, and the
machine right after reset (rule R210).
-/

namespace Sys2Proof.Machine

/-- The memory: the listed cells, each an address and a 16-bit value; a cell that is not listed reads as
`Config.unlistedCell`. Its canonical form is `Memory.wf` (Machine/Ops.lean). -/
structure Memory where
  cells : List (Nat × Word)
deriving DecidableEq, Repr

/-- The run state (R35). -/
inductive RunState where
  /-- Executing instructions. -/
  | running
  /-- Ended by HALT. -/
  | halted
  /-- Ended by an abort. -/
  | aborted
  /-- Ended by a host stop. -/
  | interrupted
deriving DecidableEq, Repr

/-- The reasons of an abort (R191), named for the model only. -/
inductive AbortReason where
  | reservedOpcode
  | rtiUndefined
  | unknownTrapVector
deriving DecidableEq, Repr

/-- Where the core waits inside a blocking `Consume()` (R113, R114 d, R202). -/
inductive Wait where
  /-- Not waiting. -/
  | idle
  /-- Inside GETC (R163). -/
  | getc
  /-- Inside IN, after its prompt (R167). -/
  | input
deriving DecidableEq, Repr

/-- One move of the host agent (R6, R37, R198), or a turn it leaves to the core. -/
inductive HostMove where
  /-- The host lets the core take one step. -/
  | coreTurn
  /-- The host appends a byte to the input, if input has not ended (R37). -/
  | append (b : Byte)
  /-- The host ends the input (R37). -/
  | close
  /-- The host stops the run between two steps, or while the core waits (R198). -/
  | stop
  /-- The stop signal arrives during the core's next step: between the `n`-th `Put` and the one after it
  if the step puts more than `n` bytes, otherwise when the step has ended (R171, R198). -/
  | stopAfter (n : Nat)
  /-- The stop signal arrives during the core's next step: in IN, after its `Consume()` and before its echo, if
  bytes of a prompt were put before, so that the point lies between two `Put`s (R167, R198); otherwise when the
  step has ended. -/
  | stopBeforeEcho
deriving DecidableEq, Repr

/-- The whole state: the record of R42, then the fields that are the model's own. -/
structure State where
  /-- R0 to R7 (R20). -/
  x : Vector Word 8
  /-- The program counter; while an instruction executes, already incremented (R23). -/
  pc : Word
  /-- The condition code (R28). -/
  cond : Cond
  /-- The halt flag (R34). -/
  halted : Bool
  /-- The run state (R35). -/
  run : RunState
  /-- The 65,536 cells of memory, the two keyboard cells among them (R39, R50). -/
  mem : Memory
  /-- The input bytes made available and not consumed, oldest first (R37). -/
  inq : List Byte
  /-- Whether input has ended (R37). -/
  closed : Bool
  /-- The output bytes put so far, oldest first (R38). -/
  out : List Byte
  /-- How many bytes of `out` have been flushed (R38). -/
  delivered : Nat
  /-- The reason of the abort, if any; the model's own (R15, R191, log entry 9). -/
  abortReason : Option AbortReason
  /-- Where the core waits for input; the model's rendering of the wait of R114 (log entry 7). -/
  wait : Wait
  /-- The host's coming moves, oldest first; the model's own (R37, R198, log entry 8). -/
  script : List HostMove
  /-- How many draws of R37 have been made; the model's own counter (log entry 5). -/
  draws : Nat
  /-- The parameters of R8, which no step changes; the model's own place for them (log entry 3). -/
  par : Params
deriving DecidableEq, Repr

/-- Why the machine stops with a fault: never. The spec's only exception is the abort (R190, R192), which
is a next state with `run` ABORTED, so no constructor is needed (safe). -/
inductive Fault : Type
deriving DecidableEq, Repr

/-- Why a step or a load is given no meaning (R196). A refusal is never a successful end. -/
inductive Refusal where
  /-- An instruction the model does not give a meaning. Raised by no arm of `exec` (safe). -/
  | notModelled (mnemonic : String)
  /-- `TrapStringDevice` (R165): a PUTS or PUTSP string reaches the keyboard-status cell. Raised by
  PUTS and PUTSP; safe, the spec gives no effect. -/
  | trapStringDevice
  /-- `TrapStringWrap` (R165): a PUTS or PUTSP string passes 0xFFFF. Raised by PUTS and PUTSP; safe,
  the spec gives no effect. -/
  | trapStringWrap
  /-- `ImageTooLong` (R65): the image's words would pass 0xFFFF. Raised by the loader; safe. -/
  | imageTooLong
  /-- `ImageOddLength` (R65): the image file has an odd number of bytes. Raised by the loader; safe. -/
  | imageOddLength
  /-- `ImageNoOrigin` (R65): the image file has no origin word. Raised by the loader; safe. -/
  | imageNoOrigin
deriving DecidableEq, Repr

/-- The start values that R8 and R37 leave to a parameter or to the host. -/
structure InitValues where
  /-- `PC_START` (R27). -/
  pcStart : Word
  /-- `INIT_COND` (R32). -/
  cond : Cond
  /-- `INIT_GPR` (R22). -/
  gpr : Vector Word 8
  /-- Memory at the start: `INIT_MEM`, and the image where one is loaded (R51). -/
  mem : Memory
  /-- The input the host has made available at reset (R37). -/
  inq : List Byte
  /-- Whether input has ended at reset (R37). -/
  closed : Bool
  /-- The host's coming moves. -/
  script : List HostMove
deriving DecidableEq, Repr

/-- The machine at its first step, for every choice of the parameters and start values (R42, R210). -/
def State.start (p : Params) (v : InitValues) : State where
  x := v.gpr
  pc := v.pcStart
  cond := v.cond
  halted := false
  run := .running
  mem := v.mem
  inq := v.inq
  closed := v.closed
  out := []
  delivered := 0
  abortReason := none
  wait := .idle
  script := v.script
  draws := 0
  par := p

/-- The start values of `State.reset`: no image, no input yet, input not ended, no host moves
(log entries 1, 2, 10). -/
def InitValues.default : InitValues where
  pcStart := defaultPcStart
  cond := defaultCond
  gpr := Vector.replicate 8 defaultGpr
  mem := ⟨[]⟩
  inq := []
  closed := false
  script := []

/-- The machine right after reset. -/
def State.reset : State := State.start defaultParams InitValues.default

end Sys2Proof.Machine
end

