-- ==== Sys2Proof/Machine/Ops.lean ====
section
/-!
DEFINITION. The named operations over registers, memory and the console ports, the two memory primitives
with the keyboard side effect, the fetch, and the abort, which is this machine's one exception.
-/

namespace Sys2Proof.Machine

/-- The outcome of a step of this machine. -/
abbrev StepOutcome := Host.Outcome State Fault Refusal

/-! ### Memory as data -/

/-- The value listed for a key, or what an unlisted cell reads as. -/
def lookupCell : List (Nat × Word) → Nat → Word
  | [], _ => Config.unlistedCell
  | (k, v) :: rest, a => if k = a then v else lookupCell rest a

/-- Puts a cell before the first cell of a greater address. -/
def insertCell (a : Nat) (v : Word) : List (Nat × Word) → List (Nat × Word)
  | [] => [(a, v)]
  | (k, w) :: rest => if a < k then (a, v) :: (k, w) :: rest else (k, w) :: insertCell a v rest

/-- The list without the cells of one address. -/
def eraseCell (a : Nat) : List (Nat × Word) → List (Nat × Word)
  | [] => []
  | (k, w) :: rest => if k = a then eraseCell a rest else (k, w) :: eraseCell a rest

/-- The canonical form: addresses strictly rising and inside the address space of R50, and no cell that
holds what an unlisted cell reads as. -/
def Memory.wf (m : Memory) : Bool :=
  decide (m.cells.Pairwise (fun c d => c.1 < d.1) ∧ ∀ c ∈ m.cells, c.1 < 65536 ∧ c.2 ≠ Config.unlistedCell)

/-- `mem[a]`: the content of one cell, with no side effect; `PlainRead` of R13. -/
def Memory.read (m : Memory) (a : Word) : Word := lookupCell m.cells a.toNat

/-- `mem[a] <- v`. -/
def Memory.write (m : Memory) (a v : Word) : Memory :=
  if v = Config.unlistedCell then ⟨eraseCell a.toNat m.cells⟩
  else ⟨insertCell a.toNat v (eraseCell a.toNat m.cells)⟩

/-! ### Registers -/

/-- `x[r]` (R12). -/
def State.reg (s : State) (r : RegIdx) : Word := s.x[r.toNat]'r.isLt

/-- `x[r] <- v` (R12). -/
def State.setReg (s : State) (r : RegIdx) (v : Word) : State :=
  { s with x := s.x.set r.toNat v r.isLt }

/-- `pc <- t` (R12). -/
def State.setPc (s : State) (t : Word) : State := { s with pc := t }

/-! ### The console ports of R36 -/

/-- `zext_16` of a byte (R11). -/
def zext16 (b : Byte) : Word := b.zeroExtend 16

/-- The low byte of a word, bits 7-0. -/
def lowByte (w : Word) : Byte := w.extractLsb' 0 8

/-- The high byte of a word, bits 15-8. -/
def highByte (w : Word) : Byte := w.extractLsb' 8 8

/-- `Poll()` (R37): whether a character is pending; after input has ended, a draw. -/
def State.poll (s : State) : Bool × State :=
  match s.inq, s.closed with
  | _ :: _, _ => (true, s)
  | [], false => (false, s)
  | [], true => (Config.pollDraw s.draws, { s with draws := s.draws + 1 })

/-- `Consume()` (R37): the next character and the state without it, or none where the core must wait. -/
def State.consume (s : State) : Option (Word × State) :=
  match s.inq, s.closed with
  | b :: rest, _ => some (zext16 b, { s with inq := rest })
  | [], true => some (s.par.eofWord, s)
  | [], false => none

/-- `Put(b)` for each byte in order (R38). -/
def State.put (s : State) (bs : List Byte) : State := { s with out := s.out ++ bs }

/-- `Flush()` (R38). -/
def State.flush (s : State) : State := { s with delivered := s.out.length }

/-! ### The memory primitives -/

/-- `MemWrite(a, v)` (R58): no write has a side effect. -/
def State.memWrite (s : State) (a v : Word) : State := { s with mem := s.mem.write a v }

/-- The side effect of reading the keyboard-status cell (R54): poll, and refresh both cells. The last
case is never reached: a poll that reports a character leaves `Consume()` one to return (R55). -/
def State.refreshKeyboard (s : State) : State :=
  let polled := s.poll
  if polled.1 then
    match polled.2.consume with
    | some (c, t) => (t.memWrite t.par.kbsrAddr 0x8000#16).memWrite t.par.kbdrAddr c
    | none => polled.2
  else polled.2.memWrite s.par.kbsrAddr 0x0000#16

/-- `MemRead(a)` (R52, R54): the value read and the state the read leaves. -/
def State.memRead (s : State) (a : Word) : Word × State :=
  if a = s.par.kbsrAddr then
    let t := s.refreshKeyboard
    (t.mem.read a, t)
  else (s.mem.read a, s)

/-- The fetch of R110: read the word at `pc`, then advance `pc` by one cell. -/
def State.fetch (s : State) : Word × State :=
  let r := s.memRead s.pc
  (r.1, r.2.setPc (r.2.pc + 1))

/-- The instruction a word stands for under the machine's tables OPCODE and TRAPVEC (R8, R94). -/
def State.decode (s : State) (w : Word) : Instr := decodeWith s.par.opcodeMap s.par.trapVec w

/-! ### The ends of a run -/

/-- `raise Abort(reason)` (R190): the run ends ABORTED; nothing else changes. This is the machine's one
exception: nothing is saved, and there is no handler and no return from it (R191, R195). -/
def State.abort (s : State) (reason : AbortReason) : State :=
  { s with run := .aborted, abortReason := some reason }

/-- A host stop (R198): the run ends INTERRUPTED; nothing else changes. -/
def State.interrupt (s : State) : State := { s with run := .interrupted }

/-- After how many `Put`s of the executing step the stop signal arrives; 0 where none does. -/
def State.stopPoint (s : State) : Nat :=
  match s.script with
  | .stopAfter n :: _ => n
  | _ => 0

/-- Whether the stop signal arrives between the `Consume()` of IN and its echo, with a prompt put before. -/
def State.stopsBeforeEcho (s : State) : Bool :=
  match s.script with
  | .stopBeforeEcho :: _ => !s.par.inPrompt.isEmpty
  | _ => false

/-- Puts `bs`, with `later` more `Put`s to come in the same routine, and goes on with `k`; or ends the run
INTERRUPTED where the stop signal falls between two of the routine's `Put`s (R171, R198). -/
def State.putThen (s : State) (bs : List Byte) (later : Nat) (k : State → StepOutcome) : StepOutcome :=
  if 0 < s.stopPoint ∧ s.stopPoint ≤ bs.length ∧ s.stopPoint < bs.length + later then
    .next (s.put (bs.take s.stopPoint)).interrupt
  else k (s.put bs)

end Sys2Proof.Machine
end

