-- ==== Sys2Proof/Machine/Console.lean ====
section
/-!
DEFINITION. The host agent's moves (rules R37 and R198), the end of a core step, and what the host
observes when a run has ended (rules R116, R199 and R200).
-/

namespace Sys2Proof.Machine

/-- The host appends a byte to the input, if input has not ended (R37). -/
def State.hostAppend (s : State) (b : Byte) : State :=
  if s.closed then s else { s with inq := s.inq ++ [b] }

/-- The host ends the input (R37). -/
def State.hostClose (s : State) : State := { s with closed := true }

/-- The state after the host's next move, or none where the next move is the core's. -/
def State.hostMove (s : State) : Option State :=
  match s.script with
  | [] => none
  | .coreTurn :: _ => none
  | .stopAfter _ :: _ => none
  | .stopBeforeEcho :: _ => none
  | .append b :: rest => some (State.hostAppend { s with script := rest } b)
  | .close :: rest => some (State.hostClose { s with script := rest })
  | .stop :: rest => some (State.interrupt { s with script := rest })

/-- The end of a core step: the turn is used up, and a stop signal that arrived during the step takes
effect if the run has not ended (R198). -/
def State.endTurn (s : State) : State :=
  match s.script with
  | .stopAfter _ :: rest =>
    if s.run = .running then State.interrupt { s with script := rest } else { s with script := rest }
  | .stopBeforeEcho :: rest =>
    if s.run = .running then State.interrupt { s with script := rest } else { s with script := rest }
  | _ :: rest => { s with script := rest }
  | [] => s

/-- The exit status of a run that has ended (R199), given the two statuses the spec leaves open. -/
def exitStatus (abortStatus interruptStatus : Nat) : RunState → Option Nat
  | .running => none
  | .halted => some 0
  | .aborted => some abortStatus
  | .interrupted => some interruptStatus

/-- What R199 asks of the two open statuses: neither is 0, and that of an interrupt is distinct from every
other status, the 2 of an argument or load error among them. -/
abbrev exitStatusesAllowed (abortStatus interruptStatus : Nat) : Prop :=
  abortStatus ≠ 0 ∧ interruptStatus ≠ 0 ∧ interruptStatus ≠ 2 ∧ interruptStatus ≠ abortStatus

/-- Whether the host may observe the output `o` at the end of a run (R200): all of it at HALTED, and at
ABORTED and INTERRUPTED any prefix that holds the delivered bytes. R200 speaks of ended runs only. -/
def State.mayObserve (s : State) (o : List Byte) : Bool :=
  match s.run with
  | .running => false
  | .halted => o == s.out
  | .aborted => o.isPrefixOf s.out && decide (s.delivered ≤ o.length)
  | .interrupted => o.isPrefixOf s.out && decide (s.delivered ≤ o.length)

end Sys2Proof.Machine
end

