-- ==== Sys2Proof/Machine/Flags.lean ====
section
/-!
DEFINITION. The condition-code updater of rule R29 and the test of rule R31.
-/

namespace Sys2Proof.Machine

/-- The condition code of a value (R29). -/
def condOf (v : Word) : Cond :=
  if v = 0x0000#16 then .z else if v.getLsbD 15 then .n else .p

/-- `update_condition(r)` (R29): from the register, after the write. -/
def State.updateCondition (s : State) (r : RegIdx) : State := { s with cond := condOf (s.reg r) }

/-- The end of every flag-setting instruction (R30): write DR, then update the condition code from it. -/
def State.setRegCond (s : State) (dr : RegIdx) (v : Word) : State :=
  (s.setReg dr v).updateCondition dr

/-- `nzp(cond)` (R31). -/
def nzpOf : Cond → BitVec 3
  | .n => 0b100#3
  | .z => 0b010#3
  | .p => 0b001#3

/-- Whether BR with the condition field `nzp` is taken (R130). -/
def branchTaken (nzp : BitVec 3) (c : Cond) : Bool := nzp &&& nzpOf c != 0b000#3

end Sys2Proof.Machine
end

