-- ==== Sys2Proof/Machine/Operands.lean ====
section
/-!
DEFINITION. The operand forms of rules R87 and R88: sign extension of each immediate and offset field,
and the address forms. `pc` is already incremented wherever they are used (R115).
-/

namespace Sys2Proof.Machine

/-- `sext_5` (R11, R87). -/
def sext5 (v : BitVec 5) : Word := v.signExtend 16

/-- `sext_6` (R11, R87). -/
def sext6 (v : BitVec 6) : Word := v.signExtend 16

/-- `sext_9` (R11, R87). -/
def sext9 (v : BitVec 9) : Word := v.signExtend 16

/-- `sext_11` (R11, R87). -/
def sext11 (v : BitVec 11) : Word := v.signExtend 16

/-- PC-relative with a 9-bit offset (R88): LD, LDI, LEA, ST, STI, BR. -/
def State.pcRel9 (s : State) (off : BitVec 9) : Word := s.pc + sext9 off

/-- PC-relative with an 11-bit offset (R88): JSR. -/
def State.pcRel11 (s : State) (off : BitVec 11) : Word := s.pc + sext11 off

/-- Base plus offset (R88): LDR, STR. -/
def State.baseOffset (s : State) (base : RegIdx) (off : BitVec 6) : Word := s.reg base + sext6 off

end Sys2Proof.Machine
end

