-- ==== Sys2Proof/Machine/Control.lean ====
section
/-!
DEFINITION. BR, JMP, JSR and JSRR (rules R130 to R135).
-/

namespace Sys2Proof.Machine

/-- BR (R130). -/
def execBr (nzp : BitVec 3) (off : BitVec 9) (s : State) : StepOutcome :=
  .next (if branchTaken nzp s.cond then s.setPc (s.pcRel9 off) else s)

/-- JMP (R132). -/
def execJmp (base : RegIdx) (s : State) : StepOutcome :=
  .next (s.setPc (s.reg base))

/-- R7 receives the return address, the incremented `pc` (R133, R134). -/
def State.link (s : State) : State := s.setReg 7#3 s.pc

/-- JSR (R133). -/
def execJsr (off : BitVec 11) (s : State) : StepOutcome :=
  .next (s.link.setPc (s.pcRel11 off))

/-- JSRR (R134), in the order that `JSRR_BASE_READ` names. -/
def execJsrr (base : RegIdx) (s : State) : StepOutcome :=
  match s.par.jsrrBaseRead with
  | .afterLink => .next (s.link.setPc (s.link.reg base))
  | .beforeLink => .next (s.link.setPc (s.reg base))

end Sys2Proof.Machine
end

