-- ==== Sys2Proof/Machine/Load.lean ====
section
/-!
DEFINITION. LD, LDI, LDR and LEA (rules R140 to R144). Every load reads through `MemRead`, so a load
from the keyboard-status cell polls (R57).
-/

namespace Sys2Proof.Machine

/-- Reads the cell at `a` through `MemRead`, writes it to DR and updates the condition code. -/
def State.loadFrom (s : State) (dr : RegIdx) (a : Word) : State :=
  let r := s.memRead a
  r.2.setRegCond dr r.1

/-- LD (R140). -/
def execLd (dr : RegIdx) (off : BitVec 9) (s : State) : StepOutcome :=
  .next (s.loadFrom dr (s.pcRel9 off))

/-- LDI (R141): the pointer is read first. -/
def execLdi (dr : RegIdx) (off : BitVec 9) (s : State) : StepOutcome :=
  let p := s.memRead (s.pcRel9 off)
  .next (p.2.loadFrom dr p.1)

/-- LDR (R142). -/
def execLdr (dr base : RegIdx) (off : BitVec 6) (s : State) : StepOutcome :=
  .next (s.loadFrom dr (s.baseOffset base off))

/-- LEA (R143): no memory access; it sets the condition code. -/
def execLea (dr : RegIdx) (off : BitVec 9) (s : State) : StepOutcome :=
  .next (s.setRegCond dr (s.pcRel9 off))

end Sys2Proof.Machine
end

