-- ==== Sys2Proof/Machine/Operate.lean ====
section
/-!
DEFINITION. ADD, AND and NOT (rules R120 to R125). The sources are read before the destination is
written (R215).
-/

namespace Sys2Proof.Machine

/-- ADD, register mode (R120). -/
def execAddReg (dr sr1 sr2 : RegIdx) (s : State) : StepOutcome :=
  .next (s.setRegCond dr (s.reg sr1 + s.reg sr2))

/-- ADD, immediate mode (R121). -/
def execAddImm (dr sr1 : RegIdx) (imm5 : BitVec 5) (s : State) : StepOutcome :=
  .next (s.setRegCond dr (s.reg sr1 + sext5 imm5))

/-- AND, register mode (R122). -/
def execAndReg (dr sr1 sr2 : RegIdx) (s : State) : StepOutcome :=
  .next (s.setRegCond dr (s.reg sr1 &&& s.reg sr2))

/-- AND, immediate mode (R123). -/
def execAndImm (dr sr1 : RegIdx) (imm5 : BitVec 5) (s : State) : StepOutcome :=
  .next (s.setRegCond dr (s.reg sr1 &&& sext5 imm5))

/-- NOT (R124). -/
def execNot (dr sr : RegIdx) (s : State) : StepOutcome :=
  .next (s.setRegCond dr (~~~ s.reg sr))

end Sys2Proof.Machine
end

