-- ==== Sys2Proof/Machine/Store.lean ====
section
/-!
DEFINITION. ST, STI and STR (rules R150 to R153).
-/

namespace Sys2Proof.Machine

/-- ST (R150). -/
def execSt (sr : RegIdx) (off : BitVec 9) (s : State) : StepOutcome :=
  .next (s.memWrite (s.pcRel9 off) (s.reg sr))

/-- STI (R151): the pointer is read through `MemRead`, then SR is read. -/
def execSti (sr : RegIdx) (off : BitVec 9) (s : State) : StepOutcome :=
  let p := s.memRead (s.pcRel9 off)
  .next (p.2.memWrite p.1 (p.2.reg sr))

/-- STR (R152). -/
def execStr (sr base : RegIdx) (off : BitVec 6) (s : State) : StepOutcome :=
  .next (s.memWrite (s.baseOffset base off) (s.reg sr))

end Sys2Proof.Machine
end

