-- ==== Sys2Proof/Machine/Trap.lean ====
section
/-!
DEFINITION. TRAP and the service routines (rules R160 to R172). A routine runs inside its TRAP
instruction's step (R195); where `Consume()` must wait, the step leaves the core in the wait, and a later
step goes on from there (rules R113, R114 and R202, log entry 7).
-/

namespace Sys2Proof.Machine

/-- The first statement of R160: if `TRAP_LINKS_R7`, `x[7] <- pc` (R161). -/
def State.trapLink (s : State) : State :=
  s.setReg 7#3 (if s.par.trapLinksR7 then s.pc else s.reg 7#3)

/-- How the walk over a string ends (R165). -/
inductive StringEnd where
  /-- At a zero cell. -/
  | terminated
  /-- At the keyboard-status cell. -/
  | device
  /-- Past 0xFFFF. -/
  | wrapped
deriving DecidableEq, Repr

/-- The bytes PUTS puts for a cell (R166). -/
def putsBytes (c : Word) : List Byte := [lowByte c]

/-- The bytes PUTSP puts for a cell (R168): the low byte always, the high byte if it is not zero. -/
def putspBytes (c : Word) : List Byte :=
  if highByte c = 0x00#8 then [lowByte c] else [lowByte c, highByte c]

/-- The loop of R166 and R168 from the cell at `a` on, over at most `n` cells: the bytes put, and how
the walk ends. Cells are read plainly (R165). -/
def walkString (m : Memory) (kbsr : Word) (bytes : Word → List Byte) : Nat → Word → List Byte × StringEnd
  | 0, _ => ([], .wrapped)
  | n + 1, a =>
    if a = kbsr then ([], .device)
    else if m.read a = 0x0000#16 then ([], .terminated)
    else if a = 0xFFFF#16 then (bytes (m.read a), .wrapped)
    else
      let rest := walkString m kbsr bytes n (a + 1)
      (bytes (m.read a) ++ rest.1, rest.2)

/-- The walk from `a` on: no more cells than lie between `a` and 0xFFFF. -/
def State.stringAt (s : State) (bytes : Word → List Byte) (a : Word) : List Byte × StringEnd :=
  walkString s.mem s.par.kbsrAddr bytes (65536 - a.toNat) a

/-- The end of PUTS and PUTSP: flush, or refuse where R165 refuses. -/
def State.finishString (s : State) (e : StringEnd) : StepOutcome :=
  match e with
  | .terminated => .next s.flush
  | .device => .refused .trapStringDevice
  | .wrapped => .refused .trapStringWrap

/-- Puts the string that R0 points at (R166, R168). -/
def State.putString (s : State) (bytes : Word → List Byte) : StepOutcome :=
  let str := s.stringAt bytes (s.reg 0#3)
  s.putThen str.1 0 (fun t => t.finishString str.2)

/-- `x[0] <- Consume()` of GETC (R163), or the wait. -/
def State.consumeGetc (s : State) : State :=
  match s.consume with
  | some (v, t) => { t.setReg 0#3 v with wait := .idle }
  | none => { s with wait := .getc }

/-- The part of IN after its prompt (R167): consume, echo, write R0; or the wait. A stop signal may fall
before the echo (R198). -/
def State.consumeIn (s : State) : State :=
  match s.consume with
  | some (v, t) =>
    if s.stopsBeforeEcho then t.interrupt else { (t.put [lowByte v]).setReg 0#3 v with wait := .idle }
  | none => { s with wait := .input }

/-- GETC (R163). -/
def State.serviceGetc (s : State) : StepOutcome := .next s.consumeGetc

/-- OUT (R164). -/
def State.serviceOut (s : State) : StepOutcome := .next (s.put [lowByte (s.reg 0#3)]).flush

/-- PUTS (R166). -/
def State.servicePuts (s : State) : StepOutcome := s.putString putsBytes

/-- IN (R167): the prompt, with the echo still to come. -/
def State.serviceIn (s : State) : StepOutcome :=
  s.putThen s.par.inPrompt 1 (fun t => .next t.consumeIn)

/-- PUTSP (R168). -/
def State.servicePutsp (s : State) : StepOutcome := s.putString putspBytes

/-- HALT (R169): the halt flag, the notice, HALTED. Whether a stop inside the notice finds the flag set already is
left open between R169 and R35 (log entry 11). -/
def State.serviceHalt (s : State) : StepOutcome :=
  State.putThen { s with halted := s.halted || s.par.haltFlagEarly } s.par.haltNotice 0
    (fun t => .next { t with halted := true, run := .halted })

/-- The routine of a service. -/
def State.service (s : State) : Service → StepOutcome
  | .getc => s.serviceGetc
  | .out => s.serviceOut
  | .puts => s.servicePuts
  | .input => s.serviceIn
  | .putsp => s.servicePutsp
  | .halt => s.serviceHalt

/-- The link of a TRAP that is about to abort, left open between R161 and R194 (log entry 12). -/
def State.strictLink (s : State) : State :=
  s.setReg 7#3 (if s.par.trapLinksR7 && s.par.strictTrapLinks then s.pc else s.reg 7#3)

/-- TRAP with an unrecognized vector (R160, R172): an abort in strict mode, otherwise the link of R161 alone. -/
def State.trapUnknown (s : State) : StepOutcome :=
  .next (if s.par.strictTrap then s.strictLink.abort .unknownTrapVector else s.trapLink)

/-- TRAP, the dispatcher, for every vector (R160): the link of R161, then the routine of the vector. -/
def execTrap (vect : BitVec 8) (s : State) : StepOutcome :=
  match s.par.trapVec.serviceOf vect with
  | some k => s.trapLink.service k
  | none => s.trapUnknown

/-- TRAP x20 (R160, R163). -/
def execGetc (s : State) : StepOutcome := s.trapLink.serviceGetc

/-- TRAP x21 (R160, R164). -/
def execOut (s : State) : StepOutcome := s.trapLink.serviceOut

/-- TRAP x22 (R160, R166). -/
def execPuts (s : State) : StepOutcome := s.trapLink.servicePuts

/-- TRAP x23 (R160, R167). -/
def execIn (s : State) : StepOutcome := s.trapLink.serviceIn

/-- TRAP x24 (R160, R168). -/
def execPutsp (s : State) : StepOutcome := s.trapLink.servicePutsp

/-- TRAP x25 (R160, R169). -/
def execHalt (s : State) : StepOutcome := s.trapLink.serviceHalt

end Sys2Proof.Machine
end

