-- ==== Sys2Proof/Machine/Undefined.lean ====
section
/-!
DEFINITION. RES and RTI (rules R180 to R182): both take the abort of rule R190, which is a next state.
-/

namespace Sys2Proof.Machine

/-- RES (R180). -/
def execRes (s : State) : StepOutcome := .next (s.abort .reservedOpcode)

/-- RTI (R181). -/
def execRti (s : State) : StepOutcome := .next (s.abort .rtiUndefined)

end Sys2Proof.Machine
end

