-- ==== Sys2Proof/Machine/Dispatch.lean ====
section
/-! DEFINITION. The dispatch (rule R112): one arm per instruction, each a call of its meaning. The state an
arm works on is the one after the fetch, with `pc` incremented (rule R115). -/

namespace Sys2Proof.Machine

def exec (i : Instr) (s : State) : Host.Outcome State Fault Refusal :=
  match i with
  | .addReg dr sr1 sr2 => Sys2Proof.Machine.execAddReg dr sr1 sr2 s
  | .addImm dr sr1 imm5 => Sys2Proof.Machine.execAddImm dr sr1 imm5 s
  | .andReg dr sr1 sr2 => Sys2Proof.Machine.execAndReg dr sr1 sr2 s
  | .andImm dr sr1 imm5 => Sys2Proof.Machine.execAndImm dr sr1 imm5 s
  | .not dr sr => Sys2Proof.Machine.execNot dr sr s
  | .br nzp off => Sys2Proof.Machine.execBr nzp off s
  | .jmp base => Sys2Proof.Machine.execJmp base s
  | .jsr off => Sys2Proof.Machine.execJsr off s
  | .jsrr base => Sys2Proof.Machine.execJsrr base s
  | .ld dr off => Sys2Proof.Machine.execLd dr off s
  | .ldi dr off => Sys2Proof.Machine.execLdi dr off s
  | .ldr dr base off => Sys2Proof.Machine.execLdr dr base off s
  | .lea dr off => Sys2Proof.Machine.execLea dr off s
  | .st sr off => Sys2Proof.Machine.execSt sr off s
  | .sti sr off => Sys2Proof.Machine.execSti sr off s
  | .str sr base off => Sys2Proof.Machine.execStr sr base off s
  | .trap vect => Sys2Proof.Machine.execTrap vect s
  | .trapGetc => Sys2Proof.Machine.execGetc s
  | .trapOut => Sys2Proof.Machine.execOut s
  | .trapPuts => Sys2Proof.Machine.execPuts s
  | .trapIn => Sys2Proof.Machine.execIn s
  | .trapPutsp => Sys2Proof.Machine.execPutsp s
  | .trapHalt => Sys2Proof.Machine.execHalt s
  | .rti => Sys2Proof.Machine.execRti s
  | .res => Sys2Proof.Machine.execRes s

end Sys2Proof.Machine
end

