-- ==== Sys2Proof/Machine/Step.lean ====
section
/-!
DEFINITION. One step of the machine: the host's move where the script says so, else one turn of the core,
which fetches, decodes and executes one instruction (rule R110) or goes on with a wait (rule R202).
-/

namespace Sys2Proof.Machine

/-- The core's turn: one instruction, or another try of the `Consume()` it waits in. -/
def State.coreTurn (s : State) : StepOutcome :=
  match s.wait with
  | .idle => exec (s.decode s.fetch.1) s.fetch.2
  | .getc => .next s.consumeGetc
  | .input => .next s.consumeIn

/-- One step. Only RUNNING executes; no step leaves the other run states (R35, R111). -/
def step (s : State) : Host.Outcome State Fault Refusal :=
  if s.run = .running then
    match s.hostMove with
    | some t => .next t
    | none =>
      match s.coreTurn with
      | .next t => .next t.endTurn
      | .fault r => .fault r
      | .refused r => .refused r
  else .next s

/-- `s` with the word `w` in the cell that the next step fetches from. It stands for the load of a program
from outside (R65, log entry 14). The next step is then the core's, and it fetches: the run is under way,
nothing waits and the host has no move. -/
def State.withFetchWord (s : State) (_nbits w : Nat) : State :=
  { s with
    mem := s.mem.write s.pc (BitVec.ofNat 16 w), run := .running, halted := false, abortReason := none, wait := .idle, script := [] }

end Sys2Proof.Machine
end

