-- ==== Sys2Proof/Machine/Boot.lean ====
section
/-!
DEFINITION. The image load (rules R65 and R66) and the boot sequence (rule R210), for their effect on the
state at the first step.
-/

namespace Sys2Proof.Machine

/-- The big-endian 16-bit words of an image file: the high byte is the first of the two (R65). -/
def imageWords : List Byte → List Word
  | hi :: lo :: rest => (hi ++ lo) :: imageWords rest
  | _ => []

/-- Writes words to consecutive cells from `a` on. -/
def Memory.writeWords (m : Memory) (a : Word) : List Word → Memory
  | [] => m
  | w :: rest => (m.write a w).writeWords (a + 1) rest

/-- The loader (R65): the first word is the origin and the others go to the cells from there on. The three
refusals are those of R65; a file of one byte is refused for its odd length (log entry 13). -/
def State.loadImage (s : State) (image : List Byte) : StepOutcome :=
  if image.length % 2 = 1 then .refused .imageOddLength
  else
    match imageWords image with
    | [] => .refused .imageNoOrigin
    | origin :: rest =>
      if origin.toNat + rest.length ≤ 65536 then .next { s with mem := s.mem.writeWords origin rest }
      else .refused .imageTooLong

/-- How the boot sequence ends. -/
inductive BootResult where
  /-- The process exits with a status before any instruction. -/
  | exited (status : Nat)
  /-- The image is refused. -/
  | refused (r : Refusal)
  /-- The machine is at its first step. -/
  | started (s : State)
deriving DecidableEq, Repr

/-- The boot sequence (R210). Each argument of the command line is given by the bytes of the file it
names, or none where that file cannot be opened. -/
def boot (p : Params) (v : InitValues) (args : List (Option (List Byte))) : BootResult :=
  match args with
  | [some image] =>
    match (State.start p v).loadImage image with
    | .next s => .started s
    | .fault r => nomatch r
    | .refused r => .refused r
  | _ => .exited 2

end Sys2Proof.Machine
end

