-- ==== Sys2Proof/Safety.lean ====
section
/-!
DEFINITION. The invariant of the machine, and the words in which claims speak of how a run stands.
-/

namespace Sys2Proof.Machine

/-- What holds between any two steps: memory is in canonical form; no more is delivered than was put
(R38); the halt flag is set exactly at HALTED (R35), but, where `haltFlagEarly`, also at an INTERRUPTED that fell
into HALT's notice (R169, log entry 11); a reason is recorded exactly at ABORTED; only a running or interrupted
core waits; the keyboard cells are distinct (R64); and the two tables hold distinct values. -/
structure State.Inv (s : State) : Prop where
  memWf : s.mem.wf = true
  delivered : s.delivered ≤ s.out.length
  haltedSet : s.run = .halted → s.halted = true
  haltedOnly : s.halted = true → s.run = .halted ∨ (s.par.haltFlagEarly = true ∧ s.run = .interrupted)
  abortReason : s.abortReason.isSome = true ↔ s.run = .aborted
  waiting : s.wait ≠ .idle → s.run = .running ∨ s.run = .interrupted
  keyboard : s.par.wf
  tables : s.par.tablesWf

/-- The run has ended (R116). -/
abbrev State.ended (s : State) : Prop := s.run ≠ .running

/-- The core is in a wait that only the host can end (R114 d): no input, and input not ended. -/
abbrev State.blocked (s : State) : Prop :=
  s.run = .running ∧ s.wait ≠ .idle ∧ s.inq = [] ∧ s.closed = false

/-- A run that stays safe: the next step is no refusal. A refusal is never a successful end (R196). -/
def State.stepsSafely (s : State) : Bool :=
  match step s with
  | .next _ => true
  | .fault _ => false
  | .refused _ => false

end Sys2Proof.Machine
end

