-- ==== Sys2Proof/Certificates/Slice0/Obligations.lean ====
section
/-!
DEFINITION. The statements for the provers, each written from the numbered rules of spec/ that it cites in
OBLIGATIONS.json. The words the statements share stand first, under Sys2Proof.Claims.
-/

namespace Sys2Proof.Claims

open Sys2Proof.Machine

/-! ### Words about what is unchanged -/

/-- Every register outside the list is unchanged. -/
def RegsKept (written : List RegIdx) (s t : State) : Prop := ∀ r, r ∉ written → t.reg r = s.reg r

/-- Every cell of memory reads as before. -/
def MemKept (s t : State) : Prop := ∀ a, t.mem.read a = s.mem.read a

/-- The input side of the console, with its count of draws, is unchanged. -/
def InputKept (s t : State) : Prop := t.inq = s.inq ∧ t.closed = s.closed ∧ t.draws = s.draws

/-- The output side of the console is unchanged. -/
def OutputKept (s t : State) : Prop := t.out = s.out ∧ t.delivered = s.delivered

/-- The host's coming moves and the parameters are unchanged. -/
def SettingKept (s t : State) : Prop := t.script = s.script ∧ t.par = s.par

/-- The halt flag, the run state and the abort's reason are unchanged. -/
def RunKept (s t : State) : Prop :=
  t.halted = s.halted ∧ t.run = s.run ∧ t.abortReason = s.abortReason

/-- The run, the wait, the host's moves and the parameters are unchanged. -/
def ControlKept (s t : State) : Prop := RunKept s t ∧ t.wait = s.wait ∧ SettingKept s t

/-! ### Words about the effects of the instructions -/

/-- The condition code of a value (R29): Z for zero, N where bit 15 is set, P otherwise. -/
def FlagsOf (v : Word) (c : Cond) : Prop :=
  c = if v = 0x0000#16 then .z else if 0x8000 ≤ v.toNat then .n else .p

/-- DR receives the value, the condition code is the value's, and nothing else changes. -/
def FlaggedWrite (s t : State) (dr : RegIdx) (v : Word) : Prop :=
  t.reg dr = v ∧ FlagsOf v t.cond ∧ t.pc = s.pc ∧ RegsKept [dr] s t ∧ MemKept s t ∧ InputKept s t ∧
    OutputKept s t ∧ ControlKept s t

/-- Control goes to the address, and nothing changes but `pc` and the registers of the list. -/
def Transfer (s t : State) (target : Word) (written : List RegIdx) : Prop :=
  t.pc = target ∧ t.cond = s.cond ∧ RegsKept written s t ∧ MemKept s t ∧ InputKept s t ∧
    OutputKept s t ∧ ControlKept s t

/-- The cell receives the value, every other cell reads as before, and nothing else changes. -/
def CellWrite (s t : State) (a v : Word) : Prop :=
  t.mem.read a = v ∧ (∀ b, b ≠ a → t.mem.read b = s.mem.read b) ∧ t.pc = s.pc ∧ t.cond = s.cond ∧
    RegsKept [] s t ∧ InputKept s t ∧ OutputKept s t ∧ ControlKept s t

/-- What R161 says of R7. -/
def LinkRule (s t : State) : Prop := t.reg 7#3 = if s.par.trapLinksR7 then s.pc else s.reg 7#3

/-- What R161 and R194 leave open of R7 where TRAP aborts: R161's link where `strictTrapLinks`, else none. -/
def StrictLinkRule (s t : State) : Prop :=
  t.reg 7#3 = if s.par.trapLinksR7 ∧ s.par.strictTrapLinks then s.pc else s.reg 7#3

/-- What no service routine touches (R170), R7 as R161 says, and the host's moves and parameters; the
registers of the list may be written. -/
def RoutineFrame (s t : State) (written : List RegIdx) : Prop :=
  LinkRule s t ∧ RegsKept written s t ∧ t.pc = s.pc ∧ t.cond = s.cond ∧ MemKept s t ∧ SettingKept s t

/-- What a completed wait leaves alone; the host's one move is used up. -/
def WaitFrame (s u : State) : Prop :=
  u.pc = s.pc ∧ u.cond = s.cond ∧ RegsKept [0#3] s u ∧ MemKept s u ∧ RunKept s u ∧ u.delivered = s.delivered ∧
    u.draws = s.draws ∧ u.par = s.par ∧ u.script = []

/-- The run ends ABORTED for the reason, and nothing else changes (R190) but the registers of the list, which a
statement before the abort may write. -/
def AbortEffect (s t : State) (reason : AbortReason) (written : List RegIdx) : Prop :=
  t.run = .aborted ∧ t.abortReason = some reason ∧ t.halted = s.halted ∧ t.pc = s.pc ∧ t.cond = s.cond ∧
    RegsKept written s t ∧ MemKept s t ∧ InputKept s t ∧ OutputKept s t ∧ t.wait = s.wait ∧ SettingKept s t

/-- From `a` on the cells hold `cs`, none of them zero and none at the keyboard-status cell. -/
def CellsAt (m : Memory) (kbsr : Word) : Word → List Word → Prop
  | _, [] => True
  | a, c :: cs => a ≠ kbsr ∧ m.read a = c ∧ c ≠ 0x0000#16 ∧ CellsAt m kbsr (a + 1) cs

/-- The machine's tables are those of R85 and R162. -/
def UsesLc3Tables (s : State) : Prop := s.par.opcodeMap = OpcodeMap.lc3 ∧ s.par.trapVec = TrapVectors.lc3

/-- The vector is none of the six that the machine's table TRAPVEC names (R92). -/
def Unrecognized (s : State) (v : BitVec 8) : Prop :=
  v ≠ s.par.trapVec.getc ∧ v ≠ s.par.trapVec.out ∧ v ≠ s.par.trapVec.puts ∧ v ≠ s.par.trapVec.input ∧
    v ≠ s.par.trapVec.putsp ∧ v ≠ s.par.trapVec.halt

/-- No stop signal falls between two of `n` puts. -/
def NoStopWithin (s : State) (n : Nat) : Prop := ¬ (0 < s.stopPoint ∧ s.stopPoint < n)

/-- The bytes of a cell that PUTSP puts (R168). -/
def packedBytes (c : Word) : List Byte :=
  if c.extractLsb' 8 8 = 0x00#8 then [c.extractLsb' 0 8] else [c.extractLsb' 0 8, c.extractLsb' 8 8]

/-- What a string routine does with a string of cells that R0 points at, given the bytes of each cell: it
puts them in order and flushes (R166, R168), or is refused as R165 says. -/
def StringRoutine (i : Instr) (bytes : Word → List Byte) : Prop :=
  ∀ (s : State) (cs : List Word),
    CellsAt s.mem s.par.kbsrAddr (s.reg 0#3) cs → (s.reg 0#3).toNat + cs.length ≤ 65536 →
    NoStopWithin s (cs.flatMap bytes).length →
    ((s.reg 0#3).toNat + cs.length < 65536 →
      s.reg 0#3 + BitVec.ofNat 16 cs.length ≠ s.par.kbsrAddr →
      s.mem.read (s.reg 0#3 + BitVec.ofNat 16 cs.length) = 0x0000#16 →
      ∃ t, exec i s = .next t ∧ t.out = s.out ++ cs.flatMap bytes ∧ t.delivered = t.out.length ∧
        RoutineFrame s t [7#3] ∧ InputKept s t ∧ RunKept s t ∧ t.wait = s.wait) ∧
    ((s.reg 0#3).toNat + cs.length < 65536 →
      s.reg 0#3 + BitVec.ofNat 16 cs.length = s.par.kbsrAddr → exec i s = .refused .trapStringDevice) ∧
    ((s.reg 0#3).toNat + cs.length = 65536 → exec i s = .refused .trapStringWrap)

/-- The run is stopped between two puts: the first `n` of the bytes are out, nothing is flushed. -/
def StoppedInside (s t : State) (bytes : List Byte) : Prop :=
  t.run = .interrupted ∧ t.out = s.out ++ bytes.take s.stopPoint ∧ t.delivered = s.delivered ∧
    RoutineFrame s t [7#3] ∧ InputKept s t ∧ t.abortReason = s.abortReason ∧ t.wait = s.wait

/-! ### The tables of the rules -/

/-- The mask and match of an instruction's row in spec/opcode_table.json. -/
def rowOf : Instr → Word × Word
  | .addReg _ _ _ => (0xF020#16, 0x1000#16)
  | .addImm _ _ _ => (0xF020#16, 0x1020#16)
  | .andReg _ _ _ => (0xF020#16, 0x5000#16)
  | .andImm _ _ _ => (0xF020#16, 0x5020#16)
  | .not _ _ => (0xF000#16, 0x9000#16)
  | .br _ _ => (0xF000#16, 0x0000#16)
  | .jmp _ => (0xF000#16, 0xC000#16)
  | .jsr _ => (0xF800#16, 0x4800#16)
  | .jsrr _ => (0xF800#16, 0x4000#16)
  | .ld _ _ => (0xF000#16, 0x2000#16)
  | .ldi _ _ => (0xF000#16, 0xA000#16)
  | .ldr _ _ _ => (0xF000#16, 0x6000#16)
  | .lea _ _ => (0xF000#16, 0xE000#16)
  | .st _ _ => (0xF000#16, 0x3000#16)
  | .sti _ _ => (0xF000#16, 0xB000#16)
  | .str _ _ _ => (0xF000#16, 0x7000#16)
  | .trap _ => (0xF000#16, 0xF000#16)
  | .trapGetc => (0xF0FF#16, 0xF020#16)
  | .trapOut => (0xF0FF#16, 0xF021#16)
  | .trapPuts => (0xF0FF#16, 0xF022#16)
  | .trapIn => (0xF0FF#16, 0xF023#16)
  | .trapPutsp => (0xF0FF#16, 0xF024#16)
  | .trapHalt => (0xF0FF#16, 0xF025#16)
  | .rti => (0xF000#16, 0x8000#16)
  | .res => (0xF000#16, 0xD000#16)

/-- The rows of spec/opcode_table.json but for the generic TRAP row, which the six service rows refine. -/
def specificRows : List (Word × Word) :=
  [(0xF020#16, 0x1000#16), (0xF020#16, 0x1020#16), (0xF020#16, 0x5000#16), (0xF020#16, 0x5020#16),
   (0xF000#16, 0x9000#16), (0xF000#16, 0x0000#16), (0xF000#16, 0xC000#16), (0xF800#16, 0x4800#16),
   (0xF800#16, 0x4000#16), (0xF000#16, 0x2000#16), (0xF000#16, 0xA000#16), (0xF000#16, 0x6000#16),
   (0xF000#16, 0xE000#16), (0xF000#16, 0x3000#16), (0xF000#16, 0xB000#16), (0xF000#16, 0x7000#16),
   (0xF0FF#16, 0xF020#16), (0xF0FF#16, 0xF021#16), (0xF0FF#16, 0xF022#16), (0xF0FF#16, 0xF023#16),
   (0xF0FF#16, 0xF024#16), (0xF0FF#16, 0xF025#16), (0xF000#16, 0x8000#16), (0xF000#16, 0xD000#16)]

/-- The bits of an instruction's word that the core reads: all but those R90 lists. -/
def readBits : Instr → Word
  | .addReg _ _ _ => 0xFFE7#16
  | .addImm _ _ _ => 0xFFFF#16
  | .andReg _ _ _ => 0xFFE7#16
  | .andImm _ _ _ => 0xFFFF#16
  | .not _ _ => 0xFFC0#16
  | .br _ _ => 0xFFFF#16
  | .jmp _ => 0xF1C0#16
  | .jsr _ => 0xFFFF#16
  | .jsrr _ => 0xF9C0#16
  | .ld _ _ => 0xFFFF#16
  | .ldi _ _ => 0xFFFF#16
  | .ldr _ _ _ => 0xFFFF#16
  | .lea _ _ => 0xFFFF#16
  | .st _ _ => 0xFFFF#16
  | .sti _ _ => 0xFFFF#16
  | .str _ _ _ => 0xFFFF#16
  | .trap _ => 0xF0FF#16
  | .trapGetc => 0xF0FF#16
  | .trapOut => 0xF0FF#16
  | .trapPuts => 0xF0FF#16
  | .trapIn => 0xF0FF#16
  | .trapPutsp => 0xF0FF#16
  | .trapHalt => 0xF0FF#16
  | .rti => 0xF000#16
  | .res => 0xF000#16

/-- Words of spec/ with the instruction each stands for: the examples of the rules, the pseudo-instructions
of R96 and vectors of 95_test_vectors.md. -/
def specWords : List (Word × Instr) :=
  [(0x1042#16, .addReg 0#3 1#3 2#3), (0x147F#16, .addImm 2#3 1#3 0b11111#5), (0x1058#16, .addReg 0#3 1#3 0#3),
   (0x5042#16, .andReg 0#3 1#3 2#3), (0x5020#16, .andImm 0#3 0#3 0#5), (0x907F#16, .not 0#3 1#3),
   (0x9040#16, .not 0#3 1#3), (0x0205#16, .br 0b001#3 5#9), (0x0FFF#16, .br 0b111#3 0x1FF#9),
   (0x0000#16, .br 0b000#3 0#9), (0xC1C0#16, .jmp 7#3), (0x4802#16, .jsr 2#11), (0x40C0#16, .jsrr 3#3),
   (0x2202#16, .ld 1#3 2#9), (0xA202#16, .ldi 1#3 2#9), (0x62BF#16, .ldr 1#3 2#3 0b111111#6),
   (0xE005#16, .lea 0#3 5#9), (0x3602#16, .st 3#3 2#9), (0xB402#16, .sti 2#3 2#9), (0x7843#16, .str 4#3 1#3 3#6),
   (0xF000#16, .trap 0x00#8), (0xF026#16, .trap 0x26#8), (0xF020#16, .trapGetc), (0xF021#16, .trapOut),
   (0xF022#16, .trapPuts), (0xF023#16, .trapIn), (0xF024#16, .trapPutsp), (0xF025#16, .trapHalt),
   (0xFF25#16, .trapHalt), (0x8000#16, .rti), (0x8FFF#16, .rti), (0xD000#16, .res), (0xDFFF#16, .res)]

/-- The condition codes on which BR is taken, row by row of the table of R131. -/
def takenOn (nzp : BitVec 3) : List Cond :=
  if nzp = 0b000#3 then []
  else if nzp = 0b001#3 then [.p]
  else if nzp = 0b010#3 then [.z]
  else if nzp = 0b011#3 then [.z, .p]
  else if nzp = 0b100#3 then [.n]
  else if nzp = 0b101#3 then [.n, .p]
  else if nzp = 0b110#3 then [.n, .z]
  else [.n, .z, .p]

/-- The code of R31. -/
def conditionCode : Cond → BitVec 3
  | .n => 0b100#3
  | .z => 0b010#3
  | .p => 0b001#3

/-- The destination of a flag-setting instruction (R17, R30). -/
def flagDest : Instr → Option RegIdx
  | .addReg dr _ _ => some dr
  | .addImm dr _ _ => some dr
  | .andReg dr _ _ => some dr
  | .andImm dr _ _ => some dr
  | .not dr _ => some dr
  | .ld dr _ => some dr
  | .ldi dr _ => some dr
  | .ldr dr _ _ => some dr
  | .lea dr _ => some dr
  | .br _ _ => none
  | .jmp _ => none
  | .jsr _ => none
  | .jsrr _ => none
  | .st _ _ => none
  | .sti _ _ => none
  | .str _ _ _ => none
  | .trap _ => none
  | .trapGetc => none
  | .trapOut => none
  | .trapPuts => none
  | .trapIn => none
  | .trapPutsp => none
  | .trapHalt => none
  | .rti => none
  | .res => none

/-- The registers an instruction reads: the middle column of the table of R21. -/
def regReads : Instr → List RegIdx
  | .addReg _ sr1 sr2 => [sr1, sr2]
  | .addImm _ sr1 _ => [sr1]
  | .andReg _ sr1 sr2 => [sr1, sr2]
  | .andImm _ sr1 _ => [sr1]
  | .not _ sr => [sr]
  | .br _ _ => []
  | .jmp base => [base]
  | .jsr _ => []
  | .jsrr base => [base]
  | .ld _ _ => []
  | .ldi _ _ => []
  | .ldr _ base _ => [base]
  | .lea _ _ => []
  | .st sr _ => [sr]
  | .sti sr _ => [sr]
  | .str sr base _ => [sr, base]
  | .trap _ => []
  | .trapGetc => []
  | .trapOut => [0#3]
  | .trapPuts => [0#3]
  | .trapIn => []
  | .trapPutsp => [0#3]
  | .trapHalt => []
  | .rti => []
  | .res => []

/-- The registers an instruction may write: the right column of the table of R21. -/
def regWrites (p : Params) : Instr → List RegIdx
  | .addReg dr _ _ => [dr]
  | .addImm dr _ _ => [dr]
  | .andReg dr _ _ => [dr]
  | .andImm dr _ _ => [dr]
  | .not dr _ => [dr]
  | .br _ _ => []
  | .jmp _ => []
  | .jsr _ => [7#3]
  | .jsrr _ => [7#3]
  | .ld dr _ => [dr]
  | .ldi dr _ => [dr]
  | .ldr dr _ _ => [dr]
  | .lea dr _ => [dr]
  | .st _ _ => []
  | .sti _ _ => []
  | .str _ _ _ => []
  | .trap _ => if p.trapLinksR7 then [7#3] else []
  | .trapGetc => if p.trapLinksR7 then [0#3, 7#3] else [0#3]
  | .trapOut => if p.trapLinksR7 then [7#3] else []
  | .trapPuts => if p.trapLinksR7 then [7#3] else []
  | .trapIn => if p.trapLinksR7 then [0#3, 7#3] else [0#3]
  | .trapPutsp => if p.trapLinksR7 then [7#3] else []
  | .trapHalt => if p.trapLinksR7 then [7#3] else []
  | .rti => []
  | .res => []

/-- The cell an instruction stores to, computed as its meaning computes it. -/
def storedCell (s : State) : Instr → Option Word
  | .st _ off => some (s.pcRel9 off)
  | .sti _ off => some (s.memRead (s.pcRel9 off)).1
  | .str _ base off => some (s.baseOffset base off)
  | _ => none

/-- Whether an instruction reads the keyboard-status cell as data: the call sites of R57. -/
def readsStatus (s : State) : Instr → Bool
  | .ld _ off => s.pcRel9 off == s.par.kbsrAddr
  | .ldi _ off => s.pcRel9 off == s.par.kbsrAddr || (s.memRead (s.pcRel9 off)).1 == s.par.kbsrAddr
  | .ldr _ base off => s.baseOffset base off == s.par.kbsrAddr
  | .sti _ off => s.pcRel9 off == s.par.kbsrAddr
  | _ => false

/-- The instructions that consume input (R36). -/
def consumes : List Instr := [.trapGetc, .trapIn]

/-- The instructions that put output (R36). -/
def puts : List Instr := [.trapOut, .trapPuts, .trapIn, .trapPutsp, .trapHalt]

/-- The control transfers, which alone write `pc` (R24). -/
def isTransfer : Instr → Bool
  | .br _ _ => true
  | .jmp _ => true
  | .jsr _ => true
  | .jsrr _ => true
  | _ => false

/-- The outcome with its next state, if any, changed. -/
def onNext (f : State → State) : StepOutcome → StepOutcome
  | .next s => .next (f s)
  | .fault r => .fault r
  | .refused r => .refused r

/-- The bytes of an image file: each word's high byte first (R65). -/
def imageBytes (ws : List Word) : List Byte := ws.flatMap fun w => [w.extractLsb' 8 8, w.extractLsb' 0 8]

end Sys2Proof.Claims

open Sys2Proof Sys2Proof.Machine Sys2Proof.Claims

/-! ### Encoding -/

/-- R82 to R86, R89, with the tables OPCODE and TRAPVEC of R8: under any two tables of distinct values, every
well-formed instruction is what its conventional word decodes to; so under those of R85 and R162. -/
def Obligations.DecodeOfEncodeIsIdentity : Prop :=
  (∀ (m : OpcodeMap) (tv : TrapVectors), m.wf = true → tv.wf = true →
    ∀ i : Instr, i.wf tv = true → decodeWith m tv (encodeWith m tv i) = i) ∧
  (∀ i : Instr, i.wf TrapVectors.lc3 = true → decode (encode i) = i)

/-- R94: a word matches the row of the instruction it decodes to, and no other row of the table but the
generic TRAP row; so no word is undecodable and no two rows overlap. -/
def Obligations.EveryWordSelectsOneRow : Prop :=
  ∀ w : Word, w &&& (rowOf (decode w)).1 = (rowOf (decode w)).2 ∧
    ∀ row ∈ specificRows, w &&& row.1 = row.2 → row = rowOf (decode w)

/-- R90: changing bits that the rules do not read changes nothing. -/
def Obligations.UnreadBitsDoNotMatter : Prop :=
  ∀ w d : Word, d &&& readBits (decode w) = 0x0000#16 → decode (w ^^^ d) = decode w

/-- The words that the rules' examples, R96 and the test vectors give decode as they say. -/
def Obligations.WordsOfTheSpecDecode : Prop :=
  ∀ p ∈ specWords, decode p.1 = p.2

/-- R11: sign extension replicates the field's top bit, and zero extension keeps the value. -/
def Obligations.ExtensionsReplicateTheTopBit : Prop :=
  (∀ (v : BitVec 5) (k : Nat), k < 16 → (sext5 v).getLsbD k = v.getLsbD (min k 4)) ∧
  (∀ (v : BitVec 6) (k : Nat), k < 16 → (sext6 v).getLsbD k = v.getLsbD (min k 5)) ∧
  (∀ (v : BitVec 9) (k : Nat), k < 16 → (sext9 v).getLsbD k = v.getLsbD (min k 8)) ∧
  (∀ (v : BitVec 11) (k : Nat), k < 16 → (sext11 v).getLsbD k = v.getLsbD (min k 10)) ∧
  (∀ b : Byte, zext16 b = 0x00#8 ++ b)

/-! ### The execute engine -/

/-- R110: where it is the core's turn and nothing waits, a step reads the word at `pc` through `MemRead`,
advances `pc` by one, and runs the instruction it decodes to on the state so left. `endTurn` is the model's:
it uses up the turn in the host's script and, with no host move to come, changes nothing. The word is decoded by
the machine's tables; with those of R85 and R162 by `decode`. -/
def Obligations.StepRunsTheDecodedInstruction : Prop :=
  (∀ s : State, s.run = .running → s.wait = .idle → s.hostMove = none →
    step s = onNext State.endTurn
      (exec (s.decode (s.memRead s.pc).1) ((s.memRead s.pc).2.setPc (s.pc + 1)))) ∧
  (∀ s : State, s.run = .running → s.wait = .idle → s.script = [] →
    step s = exec (s.decode (s.memRead s.pc).1) ((s.memRead s.pc).2.setPc (s.pc + 1))) ∧
  (∀ s : State, UsesLc3Tables s → s.decode = decode)

/-- R35, R111, R212: no step leaves HALTED, ABORTED or INTERRUPTED, and nothing changes in them. -/
def Obligations.EndedRunsNeverMove : Prop :=
  ∀ s : State, s.run ≠ .running → step s = .next s

/-- R70, R216: the word that ST or STR stores is the word fetched from that cell right after, unless the cell is
the keyboard-status cell. -/
def Obligations.StoredWordIsFetchedNext : Prop :=
  (∀ (sr : RegIdx) (off : BitVec 9) (s t : State), s.pcRel9 off ≠ s.par.kbsrAddr →
    exec (.st sr off) s = .next t → (t.setPc (s.pcRel9 off)).fetch.1 = s.reg sr) ∧
  (∀ (sr base : RegIdx) (off : BitVec 6) (s t : State), s.baseOffset base off ≠ s.par.kbsrAddr →
    exec (.str sr base off) s = .next t → (t.setPc (s.baseOffset base off)).fetch.1 = s.reg sr)

/-- R71: a fetch from the keyboard-status cell polls, and the instruction executed is RTI or BR never. -/
def Obligations.FetchOfTheStatusCellPolls : Prop :=
  ∀ s : State, s.par.wf → s.pc = s.par.kbsrAddr →
    s.fetch.2 = s.refreshKeyboard.setPc (s.pc + 1) ∧
    s.fetch.1 = s.fetch.2.mem.read s.par.kbsrAddr ∧
    (s.fetch.1 = 0x8000#16 ∨ s.fetch.1 = 0x0000#16) ∧
    (UsesLc3Tables s → s.fetch.1 = 0x8000#16 → s.decode s.fetch.1 = .rti) ∧
    (UsesLc3Tables s → s.fetch.1 = 0x0000#16 → s.decode s.fetch.1 = .br 0b000#3 0#9)

/-- R93: every word 0x0000 to 0x01FF does nothing after the fetch, and so does TRAP with an unrecognized
vector where neither `STRICT_TRAP` nor `TRAP_LINKS_R7` is set. -/
def Obligations.NoOpEncodingsDoNothing : Prop :=
  (∀ (w : Word) (s : State), w.toNat < 0x0200 → exec (decode w) s = .next s) ∧
  (∀ (v : BitVec 8) (s : State), Unrecognized s v → s.par.strictTrap = false →
    s.par.trapLinksR7 = false → exec (.trap v) s = .next s)

/-! ### Memory and the keyboard -/

/-- R58, R59: a write sets the cell, device cells included, and nothing else; a read of the cell written, if
it is not the keyboard-status cell, answers the value. -/
def Obligations.MemWriteSetsOneCell : Prop :=
  ∀ (s : State) (a v : Word),
    (s.memWrite a v).mem.read a = v ∧
    (∀ b, b ≠ a → (s.memWrite a v).mem.read b = s.mem.read b) ∧
    s.memWrite a v = { s with mem := (s.memWrite a v).mem } ∧
    (a ≠ s.par.kbsrAddr → (s.memWrite a v).memRead a = (v, s.memWrite a v))

/-- R52: a read of any other cell than the keyboard-status cell, the data cell included, has no effect. -/
def Obligations.PlainReadChangesNothing : Prop :=
  ∀ (s : State) (a : Word), a ≠ s.par.kbsrAddr → s.memRead a = (s.mem.read a, s)

/-- R54 with R37: a read of the keyboard-status cell polls and refreshes both cells. After input has ended
the poll is a draw, so either answer is admitted. -/
def Obligations.StatusReadPollsTheKeyboard : Prop :=
  ∀ s : State, s.par.wf →
    (∀ (b : Byte) (rest : List Byte), s.inq = b :: rest →
      (s.memRead s.par.kbsrAddr).1 = 0x8000#16 ∧
      (s.memRead s.par.kbsrAddr).2.mem.read s.par.kbsrAddr = 0x8000#16 ∧
      (s.memRead s.par.kbsrAddr).2.mem.read s.par.kbdrAddr = 0x00#8 ++ b ∧
      (s.memRead s.par.kbsrAddr).2.inq = rest) ∧
    (s.inq = [] → s.closed = false →
      (s.memRead s.par.kbsrAddr).1 = 0x0000#16 ∧
      (s.memRead s.par.kbsrAddr).2.mem.read s.par.kbsrAddr = 0x0000#16 ∧
      (s.memRead s.par.kbsrAddr).2.mem.read s.par.kbdrAddr = s.mem.read s.par.kbdrAddr ∧
      (s.memRead s.par.kbsrAddr).2.inq = []) ∧
    (s.inq = [] → s.closed = true →
      (s.memRead s.par.kbsrAddr).2.inq = [] ∧
      (((s.memRead s.par.kbsrAddr).1 = 0x8000#16 ∧
        (s.memRead s.par.kbsrAddr).2.mem.read s.par.kbsrAddr = 0x8000#16 ∧
        (s.memRead s.par.kbsrAddr).2.mem.read s.par.kbdrAddr = s.par.eofWord) ∨
       ((s.memRead s.par.kbsrAddr).1 = 0x0000#16 ∧
        (s.memRead s.par.kbsrAddr).2.mem.read s.par.kbsrAddr = 0x0000#16 ∧
        (s.memRead s.par.kbsrAddr).2.mem.read s.par.kbdrAddr = s.mem.read s.par.kbdrAddr))) ∧
    (∀ a, a ≠ s.par.kbsrAddr → a ≠ s.par.kbdrAddr →
      (s.memRead s.par.kbsrAddr).2.mem.read a = s.mem.read a) ∧
    (s.memRead s.par.kbsrAddr).2 =
      { s with
        mem := (s.memRead s.par.kbsrAddr).2.mem
        inq := (s.memRead s.par.kbsrAddr).2.inq
        draws := (s.memRead s.par.kbsrAddr).2.draws }

/-- R56: two reads of the keyboard-status cell with no new input. A read that finds a character moves it from
the input to the data cell, and the next read sees the next character or none. -/
def Obligations.EachStatusReadTakesOneCharacter : Prop :=
  ∀ s : State, s.par.wf →
    (s.inq = [] → s.closed = false →
      (s.memRead s.par.kbsrAddr).1 = 0x0000#16 ∧
      ((s.memRead s.par.kbsrAddr).2.memRead s.par.kbsrAddr).1 = 0x0000#16) ∧
    (∀ b : Byte, s.inq = [b] → s.closed = false →
      (s.memRead s.par.kbsrAddr).1 = 0x8000#16 ∧
      (s.memRead s.par.kbsrAddr).2.mem.read s.par.kbdrAddr = 0x00#8 ++ b ∧
      ((s.memRead s.par.kbsrAddr).2.memRead s.par.kbsrAddr).1 = 0x0000#16 ∧
      ((s.memRead s.par.kbsrAddr).2.memRead s.par.kbsrAddr).2.mem.read s.par.kbdrAddr = 0x00#8 ++ b) ∧
    (∀ (b c : Byte) (rest : List Byte), s.inq = b :: c :: rest →
      (s.memRead s.par.kbsrAddr).1 = 0x8000#16 ∧
      (s.memRead s.par.kbsrAddr).2.mem.read s.par.kbdrAddr = 0x00#8 ++ b ∧
      ((s.memRead s.par.kbsrAddr).2.memRead s.par.kbsrAddr).1 = 0x8000#16 ∧
      ((s.memRead s.par.kbsrAddr).2.memRead s.par.kbsrAddr).2.mem.read s.par.kbdrAddr = 0x00#8 ++ c ∧
      ((s.memRead s.par.kbsrAddr).2.memRead s.par.kbsrAddr).2.inq = rest)

/-- The model's own: memories in canonical form that read alike at every address are equal data. -/
def Obligations.CanonicalMemoriesThatReadAlikeAreEqual : Prop :=
  ∀ m n : Memory, m.wf = true → n.wf = true → (∀ a, m.read a = n.read a) → m = n

/-! ### Operate -/

/-- R120, R121: ADD in both modes. -/
def Obligations.AddResult : Prop :=
  (∀ w : Word, w.extractLsb' 12 4 = 0x1#4 → w.getLsbD 5 = false →
    decode w = .addReg (w.extractLsb' 9 3) (w.extractLsb' 6 3) (w.extractLsb' 0 3)) ∧
  (∀ w : Word, w.extractLsb' 12 4 = 0x1#4 → w.getLsbD 5 = true →
    decode w = .addImm (w.extractLsb' 9 3) (w.extractLsb' 6 3) (w.extractLsb' 0 5)) ∧
  (∀ (dr sr1 sr2 : RegIdx) (s : State), ∃ t, exec (.addReg dr sr1 sr2) s = .next t ∧
    FlaggedWrite s t dr (s.reg sr1 + s.reg sr2)) ∧
  (∀ (dr sr1 : RegIdx) (imm5 : BitVec 5) (s : State), ∃ t, exec (.addImm dr sr1 imm5) s = .next t ∧
    FlaggedWrite s t dr (s.reg sr1 + imm5.signExtend 16))

/-- R122, R123: AND in both modes. -/
def Obligations.AndResult : Prop :=
  (∀ w : Word, w.extractLsb' 12 4 = 0x5#4 → w.getLsbD 5 = false →
    decode w = .andReg (w.extractLsb' 9 3) (w.extractLsb' 6 3) (w.extractLsb' 0 3)) ∧
  (∀ w : Word, w.extractLsb' 12 4 = 0x5#4 → w.getLsbD 5 = true →
    decode w = .andImm (w.extractLsb' 9 3) (w.extractLsb' 6 3) (w.extractLsb' 0 5)) ∧
  (∀ (dr sr1 sr2 : RegIdx) (s : State), ∃ t, exec (.andReg dr sr1 sr2) s = .next t ∧
    FlaggedWrite s t dr (s.reg sr1 &&& s.reg sr2)) ∧
  (∀ (dr sr1 : RegIdx) (imm5 : BitVec 5) (s : State), ∃ t, exec (.andImm dr sr1 imm5) s = .next t ∧
    FlaggedWrite s t dr (s.reg sr1 &&& imm5.signExtend 16))

/-- R124: NOT. -/
def Obligations.NotResult : Prop :=
  (∀ w : Word, w.extractLsb' 12 4 = 0x9#4 → decode w = .not (w.extractLsb' 9 3) (w.extractLsb' 6 3)) ∧
  (∀ (dr sr : RegIdx) (s : State), ∃ t, exec (.not dr sr) s = .next t ∧ FlaggedWrite s t dr (~~~ s.reg sr))

/-- R125: NOT and then ADD #1 is two's-complement negation, that of 0x8000 being 0x8000. -/
def Obligations.NotThenAddOneNegates : Prop :=
  ∀ (dr sr : RegIdx) (s : State), ∃ t u, exec (.not dr sr) s = .next t ∧
    exec (.addImm dr dr 1#5) t = .next u ∧
    (u.reg dr).toNat = (65536 - (s.reg sr).toNat) % 65536

/-! ### Control transfer -/

/-- R130, R131: BR, by the AND of its field with the code of R31 and by the decision table. -/
def Obligations.BranchResult : Prop :=
  (∀ w : Word, w.extractLsb' 12 4 = 0x0#4 → decode w = .br (w.extractLsb' 9 3) (w.extractLsb' 0 9)) ∧
  (∀ (nzp : BitVec 3) (off : BitVec 9) (s : State), ∃ t, exec (.br nzp off) s = .next t ∧
    Transfer s t (if nzp &&& conditionCode s.cond = 0b000#3 then s.pc else s.pc + off.signExtend 16) []) ∧
  (∀ (nzp : BitVec 3) (c : Cond), nzp &&& conditionCode c ≠ 0b000#3 ↔ c ∈ takenOn nzp)

/-- R132: JMP. -/
def Obligations.JumpResult : Prop :=
  (∀ w : Word, w.extractLsb' 12 4 = 0xC#4 → decode w = .jmp (w.extractLsb' 6 3)) ∧
  (∀ (base : RegIdx) (s : State), ∃ t, exec (.jmp base) s = .next t ∧ Transfer s t (s.reg base) [])

/-- R133: JSR. -/
def Obligations.JsrResult : Prop :=
  (∀ w : Word, w.extractLsb' 12 4 = 0x4#4 → w.getLsbD 11 = true → decode w = .jsr (w.extractLsb' 0 11)) ∧
  (∀ (off : BitVec 11) (s : State), ∃ t, exec (.jsr off) s = .next t ∧
    t.reg 7#3 = s.pc ∧ Transfer s t (s.pc + off.signExtend 16) [7#3])

/-- R134: JSRR; only with base R7 do the two orders differ. -/
def Obligations.JsrrResult : Prop :=
  (∀ w : Word, w.extractLsb' 12 4 = 0x4#4 → w.getLsbD 11 = false → decode w = .jsrr (w.extractLsb' 6 3)) ∧
  (∀ (base : RegIdx) (s : State), ∃ t, exec (.jsrr base) s = .next t ∧
    t.reg 7#3 = s.pc ∧
    Transfer s t (if base = 7#3 ∧ s.par.jsrrBaseRead = .afterLink then s.pc else s.reg base) [7#3])

/-! ### Loads -/

/-- R140, R142: LD and LDR, for every address; what `memRead` answers and leaves is stated by
PlainReadChangesNothing and StatusReadPollsTheKeyboard. -/
def Obligations.DirectLoadResult : Prop :=
  (∀ w : Word, w.extractLsb' 12 4 = 0x2#4 → decode w = .ld (w.extractLsb' 9 3) (w.extractLsb' 0 9)) ∧
  (∀ w : Word, w.extractLsb' 12 4 = 0x6#4 →
    decode w = .ldr (w.extractLsb' 9 3) (w.extractLsb' 6 3) (w.extractLsb' 0 6)) ∧
  (∀ (dr : RegIdx) (off : BitVec 9) (s : State), ∃ t, exec (.ld dr off) s = .next t ∧
    FlaggedWrite (s.memRead (s.pc + off.signExtend 16)).2 t dr (s.memRead (s.pc + off.signExtend 16)).1 ∧
    t.pc = s.pc ∧ RegsKept [dr] s t ∧ OutputKept s t ∧ ControlKept s t) ∧
  (∀ (dr base : RegIdx) (off : BitVec 6) (s : State), ∃ t, exec (.ldr dr base off) s = .next t ∧
    FlaggedWrite (s.memRead (s.reg base + off.signExtend 16)).2 t dr
      (s.memRead (s.reg base + off.signExtend 16)).1 ∧
    t.pc = s.pc ∧ RegsKept [dr] s t ∧ OutputKept s t ∧ ControlKept s t)

/-- R141: LDI; the pointer is read first, and both reads go through `MemRead`. -/
def Obligations.IndirectLoadResult : Prop :=
  (∀ w : Word, w.extractLsb' 12 4 = 0xA#4 → decode w = .ldi (w.extractLsb' 9 3) (w.extractLsb' 0 9)) ∧
  (∀ (dr : RegIdx) (off : BitVec 9) (s u : State) (p : Word),
    s.memRead (s.pc + off.signExtend 16) = (p, u) →
    ∃ t, exec (.ldi dr off) s = .next t ∧ FlaggedWrite (u.memRead p).2 t dr (u.memRead p).1 ∧
      t.pc = s.pc ∧ RegsKept [dr] s t ∧ OutputKept s t ∧ ControlKept s t)

/-- R143: LEA sets the condition code and reads no memory, so it never polls. -/
def Obligations.LeaResult : Prop :=
  (∀ w : Word, w.extractLsb' 12 4 = 0xE#4 → decode w = .lea (w.extractLsb' 9 3) (w.extractLsb' 0 9)) ∧
  (∀ (dr : RegIdx) (off : BitVec 9) (s : State), ∃ t, exec (.lea dr off) s = .next t ∧
    FlaggedWrite s t dr (s.pc + off.signExtend 16))

/-- R140, R141, R54: LD from the keyboard-status cell, and LDI through a pointer to it, poll the keyboard and
load the refreshed status. -/
def Obligations.LoadOfTheStatusCellPolls : Prop :=
  ∀ (dr : RegIdx) (off : BitVec 9) (s : State) (i : Instr), s.par.wf →
    ((i = .ld dr off ∧ s.pcRel9 off = s.par.kbsrAddr) ∨
      (i = .ldi dr off ∧ s.pcRel9 off ≠ s.par.kbsrAddr ∧ s.mem.read (s.pcRel9 off) = s.par.kbsrAddr)) →
    ∃ t, exec i s = .next t ∧
      (∀ (b : Byte) (rest : List Byte), s.inq = b :: rest →
        t.reg dr = 0x8000#16 ∧ t.cond = .n ∧ t.mem.read s.par.kbdrAddr = 0x00#8 ++ b ∧ t.inq = rest) ∧
      (s.inq = [] → s.closed = false →
        t.reg dr = 0x0000#16 ∧ t.cond = .z ∧ t.mem.read s.par.kbdrAddr = s.mem.read s.par.kbdrAddr ∧
          t.inq = [])

/-! ### Stores -/

/-- R150, R152: ST and STR, for every address, the device cells included. -/
def Obligations.DirectStoreResult : Prop :=
  (∀ w : Word, w.extractLsb' 12 4 = 0x3#4 → decode w = .st (w.extractLsb' 9 3) (w.extractLsb' 0 9)) ∧
  (∀ w : Word, w.extractLsb' 12 4 = 0x7#4 →
    decode w = .str (w.extractLsb' 9 3) (w.extractLsb' 6 3) (w.extractLsb' 0 6)) ∧
  (∀ (sr : RegIdx) (off : BitVec 9) (s : State), ∃ t, exec (.st sr off) s = .next t ∧
    CellWrite s t (s.pc + off.signExtend 16) (s.reg sr)) ∧
  (∀ (sr base : RegIdx) (off : BitVec 6) (s : State), ∃ t, exec (.str sr base off) s = .next t ∧
    CellWrite s t (s.reg base + off.signExtend 16) (s.reg sr))

/-- R151: STI; the pointer is read through `MemRead`, so it polls at the keyboard-status cell. -/
def Obligations.IndirectStoreResult : Prop :=
  (∀ w : Word, w.extractLsb' 12 4 = 0xB#4 → decode w = .sti (w.extractLsb' 9 3) (w.extractLsb' 0 9)) ∧
  (∀ (sr : RegIdx) (off : BitVec 9) (s u : State) (p : Word),
    s.memRead (s.pc + off.signExtend 16) = (p, u) →
    ∃ t, exec (.sti sr off) s = .next t ∧ CellWrite u t p (s.reg sr) ∧
      t.pc = s.pc ∧ t.cond = s.cond ∧ RegsKept [] s t ∧ OutputKept s t ∧ ControlKept s t)

/-! ### TRAP and the service routines -/

/-- R160, R162: the vector selects the routine, whatever bits 11-8 hold, and the generic TRAP instruction
dispatches to the same routines. -/
def Obligations.TrapVectorSelectsTheRoutine : Prop :=
  ∀ row ∈ [(0x20#8, Instr.trapGetc), (0x21#8, .trapOut), (0x22#8, .trapPuts), (0x23#8, .trapIn),
      (0x24#8, .trapPutsp), (0x25#8, .trapHalt)],
    (∀ w : Word, w.extractLsb' 12 4 = 0xF#4 → w.extractLsb' 0 8 = row.1 → decode w = row.2) ∧
    (∀ s : State, UsesLc3Tables s → exec (.trap row.1) s = exec row.2 s)

/-- R163 with R37 and R161: GETC takes a character, or the end-of-input word, or waits. That a wait
is a next state with the field `wait` set is the model's form (log entry 7). -/
def Obligations.GetcResult : Prop :=
  (∀ (s : State) (b : Byte) (rest : List Byte), s.inq = b :: rest →
    ∃ t, exec .trapGetc s = .next t ∧ t.reg 0#3 = 0x00#8 ++ b ∧ t.inq = rest ∧ t.closed = s.closed ∧
      t.draws = s.draws ∧ RoutineFrame s t [0#3, 7#3] ∧ OutputKept s t ∧ RunKept s t ∧ t.wait = .idle) ∧
  (∀ s : State, s.inq = [] → s.closed = true →
    ∃ t, exec .trapGetc s = .next t ∧ t.reg 0#3 = s.par.eofWord ∧ InputKept s t ∧
      RoutineFrame s t [0#3, 7#3] ∧ OutputKept s t ∧ RunKept s t ∧ t.wait = .idle) ∧
  (∀ s : State, s.inq = [] → s.closed = false →
    ∃ t, exec .trapGetc s = .next t ∧ t.wait = .getc ∧ InputKept s t ∧
      RoutineFrame s t [7#3] ∧ OutputKept s t ∧ RunKept s t)

/-- R164 with R161: OUT puts the low byte of R0 and flushes. -/
def Obligations.OutResult : Prop :=
  ∀ s : State, ∃ t, exec .trapOut s = .next t ∧ t.out = s.out ++ [(s.reg 0#3).extractLsb' 0 8] ∧
    t.delivered = t.out.length ∧ RoutineFrame s t [7#3] ∧ InputKept s t ∧ RunKept s t ∧ t.wait = s.wait

/-- R165, R166 with R161: PUTS. -/
def Obligations.PutsResult : Prop := StringRoutine .trapPuts fun c => [c.extractLsb' 0 8]

/-- R165, R168 with R161: PUTSP. -/
def Obligations.PutspResult : Prop := StringRoutine .trapPutsp packedBytes

/-- R167 with R37 and R161: IN puts the prompt, then takes a character, echoes it and stores it, or does so
with the end-of-input word, or waits. That a wait is a next state with the field `wait` set is the model's form
(log entry 7). -/
def Obligations.InResult : Prop :=
  (∀ (s : State) (b : Byte) (rest : List Byte), NoStopWithin s (s.par.inPrompt.length + 1) →
    s.stopsBeforeEcho = false → s.inq = b :: rest →
    ∃ t, exec .trapIn s = .next t ∧ t.reg 0#3 = 0x00#8 ++ b ∧ t.inq = rest ∧ t.closed = s.closed ∧
      t.draws = s.draws ∧ t.out = s.out ++ s.par.inPrompt ++ [b] ∧ t.delivered = s.delivered ∧
      RoutineFrame s t [0#3, 7#3] ∧ RunKept s t ∧ t.wait = .idle) ∧
  (∀ s : State, NoStopWithin s (s.par.inPrompt.length + 1) → s.stopsBeforeEcho = false →
    s.inq = [] → s.closed = true →
    ∃ t, exec .trapIn s = .next t ∧ t.reg 0#3 = s.par.eofWord ∧ InputKept s t ∧
      t.out = s.out ++ s.par.inPrompt ++ [s.par.eofWord.extractLsb' 0 8] ∧ t.delivered = s.delivered ∧
      RoutineFrame s t [0#3, 7#3] ∧ RunKept s t ∧ t.wait = .idle) ∧
  (∀ s : State, NoStopWithin s (s.par.inPrompt.length + 1) → s.inq = [] → s.closed = false →
    ∃ t, exec .trapIn s = .next t ∧ t.wait = .input ∧ InputKept s t ∧
      t.out = s.out ++ s.par.inPrompt ∧ t.delivered = s.delivered ∧ RoutineFrame s t [7#3] ∧ RunKept s t)

/-- R169 with R161: HALT sets the halt flag, puts the notice and ends the run HALTED, with exit status 0; no
further instruction executes. -/
def Obligations.HaltResult : Prop :=
  ∀ s : State, NoStopWithin s s.par.haltNotice.length →
    ∃ t, exec .trapHalt s = .next t ∧ t.halted = true ∧ t.run = .halted ∧
      t.out = s.out ++ s.par.haltNotice ∧ t.delivered = s.delivered ∧ RoutineFrame s t [7#3] ∧
      InputKept s t ∧ t.abortReason = s.abortReason ∧ t.wait = s.wait ∧ (∀ u, step t = .next u → u = t) ∧
      ∀ abortStatus interruptStatus : Nat, exitStatus abortStatus interruptStatus t.run = some 0

/-- R172 with R160 and R161: an unrecognized vector does nothing but what R161 says of R7, or aborts in strict
mode. Whether the abort finds R7 linked is left open between R161 and R194 (log entry 12). With the table of R162
it is every vector but 0x20 to 0x25. -/
def Obligations.UnknownTrapResult : Prop :=
  (∀ w : Word, w.extractLsb' 12 4 = 0xF#4 → ¬ (0x20#8 ≤ w.extractLsb' 0 8 ∧ w.extractLsb' 0 8 ≤ 0x25#8) →
    decode w = .trap (w.extractLsb' 0 8)) ∧
  (∀ (v : BitVec 8) (s : State), UsesLc3Tables s → (Unrecognized s v ↔ ¬ (0x20#8 ≤ v ∧ v ≤ 0x25#8))) ∧
  (∀ (v : BitVec 8) (s : State), Unrecognized s v → s.par.strictTrap = false →
    ∃ t, exec (.trap v) s = .next t ∧ RoutineFrame s t [7#3] ∧ InputKept s t ∧ OutputKept s t ∧
      RunKept s t ∧ t.wait = s.wait) ∧
  (∀ (v : BitVec 8) (s : State), Unrecognized s v → s.par.strictTrap = true →
    ∃ t, exec (.trap v) s = .next t ∧ AbortEffect s t .unknownTrapVector [7#3] ∧ StrictLinkRule s t)

/-- R170: what no TRAP touches, for every vector and every outcome that is a next state. -/
def Obligations.RoutinesLeaveTheRestAlone : Prop :=
  ∀ (i : Instr) (s t : State), i.opcode = .trap → i.wf s.par.trapVec = true → exec i s = .next t →
    t.cond = s.cond ∧ t.pc = s.pc ∧ MemKept s t ∧ RegsKept [0#3, 7#3] s t ∧
    (i ≠ .trapGetc → i ≠ .trapIn → t.reg 0#3 = s.reg 0#3) ∧
    (s.par.trapLinksR7 = false → t.reg 7#3 = s.reg 7#3)

/-- R113, R114, R202: a core that waits for input stays as it is until the host moves, and completes the
routine once the host has appended a byte or closed the input. The form of the wait and the host's script are the
model's (log entries 7 and 8). -/
def Obligations.WaitingCoreGoesOnWithInput : Prop :=
  (∀ s : State, s.blocked → s.script = [] → step s = .next s) ∧
  (∀ (s : State) (b : Byte), s.blocked → s.script = [.append b] →
    ∃ t u, step s = .next t ∧ step t = .next u ∧ u.reg 0#3 = 0x00#8 ++ b ∧ u.inq = [] ∧ u.wait = .idle ∧
      u.out = s.out ++ (if s.wait = .input then [b] else []) ∧
      u.closed = s.closed ∧ WaitFrame s u) ∧
  (∀ s : State, s.blocked → s.script = [.close] →
    ∃ t u, step s = .next t ∧ step t = .next u ∧ u.reg 0#3 = s.par.eofWord ∧ u.inq = [] ∧ u.wait = .idle ∧
      u.out = s.out ++ (if s.wait = .input then [s.par.eofWord.extractLsb' 0 8] else []) ∧
      u.closed = true ∧ WaitFrame s u)

/-! ### Undefined opcodes -/

/-- R180, R181, R182: RES and RTI abort whatever their other bits hold, and the run never goes on. -/
def Obligations.UndefinedOpcodesAbort : Prop :=
  (∀ w : Word, w.extractLsb' 12 4 = 0xD#4 → decode w = .res) ∧
  (∀ w : Word, w.extractLsb' 12 4 = 0x8#4 → decode w = .rti) ∧
  (∀ s : State, ∃ t, exec .res s = .next t ∧ AbortEffect s t .reservedOpcode [] ∧
    ∀ u, step t = .next u → u = t) ∧
  (∀ s : State, ∃ t, exec .rti s = .next t ∧ AbortEffect s t .rtiUndefined [] ∧
    ∀ u, step t = .next u → u = t)

/-! ### The host -/

/-- R37, R198: what each move of the host does while the run is under way. -/
def Obligations.HostMovesChangeOnlyTheirPart : Prop :=
  ∀ (s : State) (rest : List HostMove), s.run = .running →
    (∀ b : Byte, s.script = .append b :: rest → s.closed = false →
      step s = .next { s with inq := s.inq ++ [b], script := rest }) ∧
    (∀ b : Byte, s.script = .append b :: rest → s.closed = true → step s = .next { s with script := rest }) ∧
    (s.script = .close :: rest → step s = .next { s with closed := true, script := rest }) ∧
    (s.script = .stop :: rest → step s = .next { s with run := .interrupted, script := rest })

/-- R171, R198: a stop signal between two puts of PUTS, PUTSP, IN or HALT leaves the bytes put before it. In IN
the point between the prompt and the echo may lie before or after the `Consume()`. In HALT the halt flag is
set already or not yet, left open between R169 and R35 (log entry 11). -/
def Obligations.StopBetweenTwoPuts : Prop :=
  (∀ (s : State) (cs : List Word), CellsAt s.mem s.par.kbsrAddr (s.reg 0#3) cs →
    (s.reg 0#3).toNat + cs.length ≤ 65536 → 0 < s.stopPoint →
    (s.stopPoint < (cs.flatMap fun c => [c.extractLsb' 0 8]).length →
      ∃ t, exec .trapPuts s = .next t ∧ t.halted = s.halted ∧
        StoppedInside s t (cs.flatMap fun c => [c.extractLsb' 0 8])) ∧
    (s.stopPoint < (cs.flatMap packedBytes).length →
      ∃ t, exec .trapPutsp s = .next t ∧ t.halted = s.halted ∧ StoppedInside s t (cs.flatMap packedBytes))) ∧
  (∀ s : State, 0 < s.stopPoint → s.stopPoint ≤ s.par.inPrompt.length →
    ∃ t, exec .trapIn s = .next t ∧ t.halted = s.halted ∧ StoppedInside s t s.par.inPrompt) ∧
  (∀ s : State, s.stopsBeforeEcho = true → s.inq ≠ [] ∨ s.closed = true →
    ∃ t, exec .trapIn s = .next t ∧ t.run = .interrupted ∧ t.halted = s.halted ∧ t.inq = s.inq.tail ∧
      t.closed = s.closed ∧ t.draws = s.draws ∧ t.out = s.out ++ s.par.inPrompt ∧ t.delivered = s.delivered ∧
      RoutineFrame s t [7#3] ∧ t.abortReason = s.abortReason ∧ t.wait = s.wait) ∧
  (∀ s : State, 0 < s.stopPoint → s.stopPoint < s.par.haltNotice.length →
    ∃ t, exec .trapHalt s = .next t ∧ t.halted = (s.halted || s.par.haltFlagEarly) ∧ StoppedInside s t s.par.haltNotice)

/-- R198: a stop signal that arrives during a step without falling between two of its puts ends the run right
after the step, if the step has not ended it. -/
def Obligations.StopTakesEffectAfterTheStep : Prop :=
  ∀ (s t : State) (m : HostMove) (rest : List HostMove), s.run = .running → s.wait = .idle →
    s.script = m :: rest → (∃ n, m = .stopAfter n) ∨ m = .stopBeforeEcho → exec (s.decode s.fetch.1) s.fetch.2 = .next t →
    (t.run = .running → step s = .next { t with run := .interrupted, script := rest }) ∧
    (t.run ≠ .running → step s = .next { t with script := rest })

/-- R200: what the host may observe at each end. -/
def Obligations.ObservedOutputAtEachEnd : Prop :=
  ∀ (s : State) (o : List Byte),
    (s.run = .halted → (s.mayObserve o = true ↔ o = s.out)) ∧
    (s.run = .aborted ∨ s.run = .interrupted →
      (s.mayObserve o = true ↔ o <+: s.out ∧ s.delivered ≤ o.length))

/-! ### Whole-machine rules -/

/-- R38, R64, the distinct values of the tables of R85 and R162, R35 but, where `haltFlagEarly`, for a stop inside
HALT's notice (log entry 11), and the model's own: from every state that meets the invariant, every step gives a state that meets
it. -/
def Obligations.EveryStepKeepsTheInvariant : Prop :=
  ∀ s t : State, s.Inv → step s = .next t → t.Inv

/-- The reset state meets the invariant, and so does every start state with a canonical memory, distinct keyboard
cells (R64) and tables of distinct values. -/
def Obligations.StartMeetsTheInvariant : Prop :=
  State.reset.Inv ∧ ∀ (p : Params) (v : InitValues), v.mem.wf = true → p.wf → p.tablesWf → (State.start p v).Inv

/-- R30: the flag-setting instructions set the condition code from the register just written, and no other
instruction writes it. -/
def Obligations.OnlyFlagSettersWriteTheConditionCode : Prop :=
  ∀ (i : Instr) (s t : State), exec i s = .next t →
    (∀ dr, flagDest i = some dr → FlagsOf (t.reg dr) t.cond) ∧ (flagDest i = none → t.cond = s.cond)

/-- R24: the fetch advances `pc` by one, wrapping, and only BR, JMP, JSR and JSRR then overwrite it. -/
def Obligations.OnlyTransfersWriteThePc : Prop :=
  (∀ s : State, s.fetch.2.pc = s.pc + 1) ∧
  ∀ (i : Instr) (s t : State), isTransfer i = false → exec i s = .next t → t.pc = s.pc

/-- R21, right column: an instruction changes no register but those its row lists. -/
def Obligations.OnlyListedRegistersAreWritten : Prop :=
  ∀ (i : Instr) (s t : State), i.wf s.par.trapVec = true → exec i s = .next t → RegsKept (regWrites s.par i) s t

/-- R21, middle column: a register that an instruction neither reads nor writes has no influence on anything
else. -/
def Obligations.UnlistedRegistersAreNotRead : Prop :=
  ∀ (i : Instr) (s : State) (r : RegIdx) (v : Word), i.wf s.par.trapVec = true → r ∉ regReads i → r ∉ regWrites s.par i →
    exec i (s.setReg r v) = onNext (fun t => t.setReg r v) (exec i s)

/-- R57, R58, R153: an instruction changes no cell but the one it stores to and, where it reads the
keyboard-status cell, the two keyboard cells. -/
def Obligations.OnlyStoresAndPollsChangeMemory : Prop :=
  ∀ (i : Instr) (s t : State) (a : Word), exec i s = .next t → storedCell s i ≠ some a →
    (readsStatus s i = true → a ≠ s.par.kbsrAddr ∧ a ≠ s.par.kbdrAddr) →
    t.mem.read a = s.mem.read a

/-- R36, the column "used by": which instructions use the input and which the output. -/
def Obligations.OnlyListedInstructionsUseTheConsole : Prop :=
  ∀ (i : Instr) (s t : State), i.wf s.par.trapVec = true → exec i s = .next t →
    (i ∉ consumes → readsStatus s i = false → InputKept s t) ∧ (i ∉ puts → OutputKept s t)

/-- R38, R171: output is only ever appended to, and what is delivered stays delivered. -/
def Obligations.OutputOnlyGrows : Prop :=
  ∀ s t : State, s.Inv → step s = .next t → s.out <+: t.out ∧ s.delivered ≤ t.delivered

/-- R34: only HALT sets the halt flag, and nothing clears it. -/
def Obligations.OnlyHaltSetsTheHaltFlag : Prop :=
  (∀ (i : Instr) (s t : State), i.wf s.par.trapVec = true → i ≠ .trapHalt → exec i s = .next t → t.halted = s.halted) ∧
  (∀ s t : State, s.halted = true → step s = .next t → t.halted = true)

/-- R8, R42: the parameters are fixed for a run. -/
def Obligations.ParametersNeverChange : Prop :=
  ∀ s t : State, step s = .next t → t.par = s.par

/-- R53, R165, R192, R196: `exec` refuses no instruction but in the two cases of the string routines, and answers a
next state everywhere else. That GETC or IN with no input answers a next state is the model's form of the wait of
R114 d (log entry 7), and so is the next state of a stop inside a routine (R198, log entry 8). -/
def Obligations.OnlyStringRoutinesAreRefused : Prop :=
  ∀ (i : Instr) (s : State), i.wf s.par.trapVec = true →
    (∃ t, exec i s = .next t) ∨
    ((i = .trapPuts ∨ i = .trapPutsp) ∧
      (exec i s = .refused .trapStringDevice ∨ exec i s = .refused .trapStringWrap))

/-! ### Reset and boot -/

/-- R42, R210: the fields at the first step, for every choice of the parameters and start values, and the spec's
defaults in the reset state. The registers, the condition code, memory and the host's part of
`State.reset` are the model's choice (log entries 1, 2 and 10) and are not stated here. -/
def Obligations.StartValues : Prop :=
  (∀ (p : Params) (v : InitValues),
    (State.start p v).x = v.gpr ∧ (State.start p v).pc = v.pcStart ∧ (State.start p v).cond = v.cond ∧
    (State.start p v).halted = false ∧ (State.start p v).run = .running ∧ (State.start p v).mem = v.mem ∧
    (State.start p v).inq = v.inq ∧ (State.start p v).closed = v.closed ∧
    (State.start p v).out = [] ∧ (State.start p v).delivered = 0 ∧ (State.start p v).par = p ∧
    (State.start p v).script = v.script ∧ (State.start p v).wait = .idle ∧ (State.start p v).abortReason = none) ∧
  State.reset.pc = 0x3000#16 ∧ State.reset.halted = false ∧ State.reset.run = .running ∧
  State.reset.out = [] ∧ State.reset.delivered = 0 ∧
  State.reset.par.kbsrAddr = 0xFE00#16 ∧ State.reset.par.kbdrAddr = 0xFE02#16 ∧
  State.reset.par.eofWord = 0xFFFF#16 ∧ State.reset.par.strictTrap = false ∧
  State.reset.par.jsrrBaseRead = .afterLink ∧ State.reset.par.inPrompt = [] ∧ UsesLc3Tables State.reset

/-- R65: the loader fills the cells from the origin on and no other, and refuses what R65 refuses. -/
def Obligations.ImageLoadFillsFromTheOrigin : Prop :=
  (∀ (s : State) (origin : Word) (ws : List Word), origin.toNat + ws.length ≤ 65536 →
    ∃ t, s.loadImage (imageBytes (origin :: ws)) = .next t ∧
      (∀ (k : Nat) (h : k < ws.length), t.mem.read (origin + BitVec.ofNat 16 k) = ws[k]) ∧
      (∀ a : Word, a.toNat < origin.toNat ∨ origin.toNat + ws.length ≤ a.toNat →
        t.mem.read a = s.mem.read a) ∧
      t = { s with mem := t.mem }) ∧
  (∀ (s : State) (origin : Word) (ws : List Word), 65536 < origin.toNat + ws.length →
    s.loadImage (imageBytes (origin :: ws)) = .refused .imageTooLong) ∧
  (∀ (s : State) (image : List Byte), image.length % 2 = 1 → s.loadImage image = .refused .imageOddLength) ∧
  (∀ s : State, s.loadImage [] = .refused .imageNoOrigin)

/-- R210, R211: boot wants exactly one image file that can be opened; it starts exactly where the loader takes the
image, with the memory the loader leaves, and is refused exactly where the loader refuses; the start does not
depend on the image's origin. -/
def Obligations.BootStartsAtPcStart : Prop :=
  (∀ (p : Params) (v : InitValues) (args : List (Option (List Byte))), args.length ≠ 1 → boot p v args = .exited 2) ∧
  (∀ (p : Params) (v : InitValues), boot p v [none] = .exited 2) ∧
  (∀ (p : Params) (v : InitValues) (image : List Byte) (s : State),
    boot p v [some image] = .started s ↔ (State.start p v).loadImage image = .next s) ∧
  (∀ (p : Params) (v : InitValues) (image : List Byte) (r : Refusal),
    boot p v [some image] = .refused r ↔ (State.start p v).loadImage image = .refused r) ∧
  (∀ (p : Params) (v : InitValues) (image : List Byte), ∀ status, boot p v [some image] ≠ .exited status) ∧
  (∀ (p : Params) (v : InitValues) (image : List Byte) (s : State), boot p v [some image] = .started s →
    s = { State.start p v with mem := s.mem } ∧ s.pc = v.pcStart ∧ s.run = .running)

/-! ### Aborts -/

/-- R190, R192: only RES, RTI and, in strict mode, TRAP with an unrecognized vector abort; an instruction that
aborts writes nothing but the run state and the recorded reason, as R194 says; only where `strictTrapLinks` does
TRAP link R7 before it, as R161 says (log entry 12). -/
def Obligations.AbortsWriteOnlyTheLink : Prop :=
  ∀ (i : Instr) (s t : State), s.run ≠ .aborted → exec i s = .next t → t.run = .aborted →
    (i = .res ∧ AbortEffect s t .reservedOpcode []) ∨ (i = .rti ∧ AbortEffect s t .rtiUndefined []) ∨
    (s.par.strictTrap = true ∧ (∃ v, i = .trap v ∧ Unrecognized s v) ∧
      AbortEffect s t .unknownTrapVector (if s.par.strictTrapLinks then [7#3] else []) ∧ StrictLinkRule s t)
end

