-- ==== Sys2Proof/Laws/Decode.lean ====
section
/-!
SUPPORT. The two tables read both ways, the fields of each format, and that every word decodes to a well-formed
instruction.
-/

namespace Sys2Proof

theorem Opcode.mem_all (o : Opcode) : o ∈ Opcode.all := by cases o <;> decide

theorem Service.mem_all (k : Service) : k ∈ Service.all := by cases k <;> decide

theorem OpcodeMap.bits_injective {m : OpcodeMap} (h : m.wf = true) {o o' : Opcode} (e : m.bits o = m.bits o') :
    o = o' :=
  List.inj_on_of_nodup_map (of_decide_eq_true h) o.mem_all o'.mem_all e

theorem TrapVectors.vector_injective {tv : TrapVectors} (h : tv.wf = true) {k k' : Service}
    (e : tv.vector k = tv.vector k') : k = k' :=
  List.inj_on_of_nodup_map (of_decide_eq_true h) k.mem_all k'.mem_all e

/-- Reading back an opcode's value gives the opcode. -/
theorem OpcodeMap.opcodeOf_bits {m : OpcodeMap} (h : m.wf = true) (o : Opcode) : m.opcodeOf (m.bits o) = o := by
  unfold OpcodeMap.opcodeOf
  rcases hf : Opcode.all.find? fun o' => m.bits o' == m.bits o with _ | o'
  · simpa using List.find?_eq_none.1 hf o o.mem_all
  · exact OpcodeMap.bits_injective h (by simpa using List.find?_some hf)

/-- Reading back a service's vector gives the service. -/
theorem TrapVectors.serviceOf_vector {tv : TrapVectors} (h : tv.wf = true) (k : Service) :
    tv.serviceOf (tv.vector k) = some k := by
  unfold TrapVectors.serviceOf
  rcases hf : Service.all.find? fun k' => tv.vector k' == tv.vector k with _ | k'
  · simpa using List.find?_eq_none.1 hf k k.mem_all
  · exact congrArg some (TrapVectors.vector_injective h (by simpa using List.find?_some hf))

/-- A vector that selects a service is that service's vector. -/
theorem TrapVectors.vector_of_serviceOf {tv : TrapVectors} {v : BitVec 8} {k : Service}
    (h : tv.serviceOf v = some k) : tv.vector k = v := by
  simpa using List.find?_some h

/-- A vector is unrecognized exactly if it is no service's (R92). -/
theorem TrapVectors.serviceOf_eq_none {tv : TrapVectors} {v : BitVec 8} :
    tv.serviceOf v = none ↔ ∀ k, tv.vector k ≠ v := by
  simp [TrapVectors.serviceOf, List.find?_eq_none, Service.mem_all]

/-- The tables of R85 and R162 hold distinct values. -/
theorem lc3_tables_wf : OpcodeMap.lc3.wf = true ∧ TrapVectors.lc3.wf = true := by decide

/-- The sixteen distinct values are all the values of the opcode field (R81, R112). -/
theorem OpcodeMap.bits_opcodeOf {m : OpcodeMap} (h : m.wf = true) (b : BitVec 4) : m.bits (m.opcodeOf b) = b := by
  have hn : (Opcode.all.map m.bits).Nodup := of_decide_eq_true h
  have hb : b ∈ Opcode.all.map m.bits := by
    have hs : (Opcode.all.map fun o => (m.bits o).toNat) ⊆ List.range 16 := fun x hx => by
      obtain ⟨o, -, rfl⟩ := List.mem_map.1 hx
      exact List.mem_range.2 (m.bits o).isLt
    have hd : (Opcode.all.map fun o => (m.bits o).toNat).Nodup := by
      have := hn.map (f := BitVec.toNat) fun x y e => BitVec.eq_of_toNat_eq e
      simpa [Function.comp_def] using this
    have hp := (hd.subperm hs).perm_of_length_le (by simp [Opcode.all])
    obtain ⟨o, ho, e⟩ := List.mem_map.1 (hp.mem_iff.2 (List.mem_range.2 b.isLt))
    exact List.mem_map.2 ⟨o, ho, BitVec.eq_of_toNat_eq e⟩
  obtain ⟨o, -, rfl⟩ := List.mem_map.1 hb
  rw [OpcodeMap.opcodeOf_bits h]

/-! ### The fields of each format -/

@[simp] theorem fieldOpcode_format12 (op : BitVec 4) (rest : BitVec 12) :
    fieldOpcode (format12 op rest) = op := by
  unfold fieldOpcode format12
  rw [BitVec.extractLsb'_append_eq_of_le (by decide)]
  exact BitVec.extractLsb'_eq_self

@[simp] theorem fieldOpcode_format39 (op : BitVec 4) (f : BitVec 3) (off : BitVec 9) :
    fieldOpcode (format39 op f off) = op := by
  unfold fieldOpcode format39
  rw [BitVec.extractLsb'_append_eq_of_le (by decide), BitVec.extractLsb'_append_eq_of_le (by decide)]
  exact BitVec.extractLsb'_eq_self

@[simp] theorem fieldOpcode_format336 (op : BitVec 4) (f g : BitVec 3) (low : BitVec 6) :
    fieldOpcode (format336 op f g low) = op := by
  unfold fieldOpcode format336
  rw [BitVec.extractLsb'_append_eq_of_le (by decide), BitVec.extractLsb'_append_eq_of_le (by decide),
    BitVec.extractLsb'_append_eq_of_le (by decide)]
  exact BitVec.extractLsb'_eq_self

@[simp] theorem fieldDr_format39 (op : BitVec 4) (f : BitVec 3) (off : BitVec 9) :
    fieldDr (format39 op f off) = f := by
  unfold fieldDr format39
  rw [BitVec.extractLsb'_append_eq_of_le (by decide), BitVec.extractLsb'_append_eq_of_add_le (by decide)]
  exact BitVec.extractLsb'_eq_self

@[simp] theorem fieldPcOffset9_format39 (op : BitVec 4) (f : BitVec 3) (off : BitVec 9) :
    fieldPcOffset9 (format39 op f off) = off := by
  unfold fieldPcOffset9 format39
  rw [BitVec.extractLsb'_append_eq_of_add_le (by decide)]
  exact BitVec.extractLsb'_eq_self

@[simp] theorem fieldDr_format336 (op : BitVec 4) (f g : BitVec 3) (low : BitVec 6) :
    fieldDr (format336 op f g low) = f := by
  unfold fieldDr format336
  rw [BitVec.extractLsb'_append_eq_of_le (by decide), BitVec.extractLsb'_append_eq_of_le (by decide),
    BitVec.extractLsb'_append_eq_of_add_le (by decide)]
  exact BitVec.extractLsb'_eq_self

@[simp] theorem fieldSr1_format336 (op : BitVec 4) (f g : BitVec 3) (low : BitVec 6) :
    fieldSr1 (format336 op f g low) = g := by
  unfold fieldSr1 format336
  rw [BitVec.extractLsb'_append_eq_of_le (by decide), BitVec.extractLsb'_append_eq_of_add_le (by decide)]
  exact BitVec.extractLsb'_eq_self

@[simp] theorem fieldOffset6_format336 (op : BitVec 4) (f g : BitVec 3) (low : BitVec 6) :
    fieldOffset6 (format336 op f g low) = low := by
  unfold fieldOffset6 format336
  rw [BitVec.extractLsb'_append_eq_of_add_le (by decide)]
  exact BitVec.extractLsb'_eq_self

/-! ### Well-formedness -/

/-- A vector selects the generic TRAP row only if it is no service vector (R92). -/
theorem trapOfVector_wf (tv : TrapVectors) (v : BitVec 8) : (trapOfVector tv v).wf tv = true := by
  unfold trapOfVector
  rcases h : tv.serviceOf v with _ | k
  · simp [Instr.wf, h]
  · cases k <;> rfl

/-- The TRAP instruction of a vector has the opcode TRAP. -/
theorem trapOfVector_opcode (tv : TrapVectors) (v : BitVec 8) : (trapOfVector tv v).opcode = .trap := by
  unfold trapOfVector
  rcases tv.serviceOf v with _ | k
  · rfl
  · cases k <;> rfl

/-- Every word decodes to a well-formed instruction (R94). -/
theorem decodeWith_wf (m : OpcodeMap) (tv : TrapVectors) (w : Word) : (decodeWith m tv w).wf tv = true := by
  unfold decodeWith
  cases m.opcodeOf (fieldOpcode w) <;> dsimp only
  case trap => exact trapOfVector_wf tv _
  all_goals first | rfl | (split <;> rfl)

/-- The instruction a word decodes to has the opcode the word's opcode field selects (R85). -/
theorem decodeWith_opcode (m : OpcodeMap) (tv : TrapVectors) (w : Word) :
    (decodeWith m tv w).opcode = m.opcodeOf (fieldOpcode w) := by
  unfold decodeWith
  cases m.opcodeOf (fieldOpcode w) <;> dsimp only
  case trap => exact trapOfVector_opcode tv _
  all_goals first | rfl | (split <;> rfl)

end Sys2Proof
end

