-- ==== Sys2Proof/Laws/Memory.lean ====
section
/-!
SUPPORT. What memory as data does: a read after a write, for every list; and that every memory operation
keeps the canonical form.
-/

namespace Sys2Proof.Machine

theorem lookupCell_eraseCell_same (l : List (Nat × Word)) (a : Nat) :
    lookupCell (eraseCell a l) a = Config.unlistedCell := by
  induction l with
  | nil => rfl
  | cons c rest ih =>
    obtain ⟨k, w⟩ := c
    by_cases h : k = a <;> simp [eraseCell, lookupCell, h, ih]

theorem lookupCell_eraseCell_ne {a b : Nat} (l : List (Nat × Word)) (h : b ≠ a) :
    lookupCell (eraseCell a l) b = lookupCell l b := by
  induction l with
  | nil => rfl
  | cons c rest ih =>
    obtain ⟨k, w⟩ := c
    by_cases hk : k = a
    · have : ¬ k = b := fun e => h (e.symm.trans hk)
      simp [eraseCell, lookupCell, hk, ih, Ne.symm h]
    · simp [eraseCell, lookupCell, hk, ih]

theorem lookupCell_insertCell_ne {a b : Nat} (l : List (Nat × Word)) (v : Word) (h : b ≠ a) :
    lookupCell (insertCell a v l) b = lookupCell l b := by
  induction l with
  | nil => simp [insertCell, lookupCell, Ne.symm h]
  | cons c rest ih =>
    obtain ⟨k, w⟩ := c
    by_cases hk : a < k <;> simp [insertCell, lookupCell, hk, ih, Ne.symm h]

/-- A cell inserted into a list without its address is the one found there. -/
theorem lookupCell_insertCell_same (l : List (Nat × Word)) (a : Nat) (v : Word)
    (h : ∀ c ∈ l, c.1 ≠ a) : lookupCell (insertCell a v l) a = v := by
  induction l with
  | nil => simp [insertCell, lookupCell]
  | cons c rest ih =>
    obtain ⟨k, w⟩ := c
    have hk : k ≠ a := h (k, w) (by simp)
    by_cases hlt : a < k
    · simp [insertCell, lookupCell, hlt]
    · simp [insertCell, lookupCell, hlt, hk, ih (fun c hc => h c (by simp [hc]))]

theorem mem_eraseCell {l : List (Nat × Word)} {a : Nat} {c : Nat × Word} (h : c ∈ eraseCell a l) :
    c ∈ l ∧ c.1 ≠ a := by
  induction l with
  | nil => simp [eraseCell] at h
  | cons d rest ih =>
    obtain ⟨k, w⟩ := d
    by_cases hk : k = a
    · simp only [eraseCell, hk, if_true] at h
      exact ⟨List.mem_cons_of_mem _ (ih h).1, (ih h).2⟩
    · simp only [eraseCell, hk, if_false, List.mem_cons] at h
      rcases h with rfl | h
      · exact ⟨List.mem_cons_self .., hk⟩
      · exact ⟨List.mem_cons_of_mem _ (ih h).1, (ih h).2⟩

theorem mem_insertCell {l : List (Nat × Word)} {a : Nat} {v : Word} {c : Nat × Word}
    (h : c ∈ insertCell a v l) : c = (a, v) ∨ c ∈ l := by
  induction l with
  | nil => simpa [insertCell] using h
  | cons d rest ih =>
    obtain ⟨k, w⟩ := d
    by_cases hk : a < k
    · simpa [insertCell, hk] using h
    · simp only [insertCell, hk, if_false, List.mem_cons] at h ⊢
      rcases h with h | h
      · exact .inr (.inl h)
      · exact (ih h).imp_right .inr

/-- A cell reads as the value last written to it. -/
theorem Memory.read_write_same (m : Memory) (a v : Word) : (m.write a v).read a = v := by
  unfold Memory.write Memory.read
  split
  · rename_i h; rw [h]; exact lookupCell_eraseCell_same _ _
  · exact lookupCell_insertCell_same _ _ _ fun c hc => (mem_eraseCell hc).2

/-- A write leaves every other cell alone. -/
theorem Memory.read_write_ne {a b : Word} (m : Memory) (v : Word) (h : b ≠ a) :
    (m.write a v).read b = m.read b := by
  have hn : b.toNat ≠ a.toNat := fun e => h (BitVec.eq_of_toNat_eq e)
  unfold Memory.write Memory.read
  split
  · exact lookupCell_eraseCell_ne _ hn
  · exact (lookupCell_insertCell_ne _ _ hn).trans (lookupCell_eraseCell_ne _ hn)

theorem Memory.read_write (m : Memory) (a v b : Word) :
    (m.write a v).read b = if b = a then v else m.read b := by
  split
  · rename_i h; rw [h, Memory.read_write_same]
  · rename_i h; exact Memory.read_write_ne m v h

theorem eraseCell_sorted {l : List (Nat × Word)} (a : Nat) (h : l.Pairwise (fun c d => c.1 < d.1)) :
    (eraseCell a l).Pairwise (fun c d => c.1 < d.1) := by
  induction l with
  | nil => simp [eraseCell]
  | cons c rest ih =>
    obtain ⟨k, w⟩ := c
    rw [List.pairwise_cons] at h
    by_cases hk : k = a
    · simpa [eraseCell, hk] using ih h.2
    · simp only [eraseCell, hk, if_false, List.pairwise_cons]
      exact ⟨fun d hd => h.1 d (mem_eraseCell hd).1, ih h.2⟩

theorem insertCell_sorted {l : List (Nat × Word)} (a : Nat) (v : Word)
    (h : l.Pairwise (fun c d => c.1 < d.1)) (hne : ∀ c ∈ l, c.1 ≠ a) :
    (insertCell a v l).Pairwise (fun c d => c.1 < d.1) := by
  induction l with
  | nil => simp [insertCell]
  | cons c rest ih =>
    obtain ⟨k, w⟩ := c
    have hp := List.pairwise_cons.1 h
    by_cases hlt : a < k
    · simp only [insertCell, hlt, if_true]
      refine List.pairwise_cons.2 ⟨fun d hd => ?_, h⟩
      rcases List.mem_cons.1 hd with rfl | hd
      · exact hlt
      · exact hlt.trans (hp.1 d hd)
    · have hk : k ≠ a := hne (k, w) (by simp)
      simp only [insertCell, hlt, if_false]
      refine List.pairwise_cons.2 ⟨fun d hd => ?_, ih hp.2 fun c hc => hne c (by simp [hc])⟩
      rcases mem_insertCell hd with rfl | hd
      · show k < a
        omega
      · exact hp.1 d hd

/-- The canonical form as a proposition. -/
theorem Memory.wf_iff (m : Memory) : m.wf = true ↔ m.cells.Pairwise (fun c d => c.1 < d.1) ∧
    ∀ c ∈ m.cells, c.1 < 65536 ∧ c.2 ≠ Config.unlistedCell := decide_eq_true_iff

/-- Every write keeps the canonical form. -/
theorem Memory.write_wf {m : Memory} (a v : Word) (h : m.wf = true) : (m.write a v).wf = true := by
  rw [Memory.wf_iff] at h ⊢
  have he : ∀ c ∈ eraseCell a.toNat m.cells, c.1 < 65536 ∧ c.2 ≠ Config.unlistedCell :=
    fun c hc => h.2 c (mem_eraseCell hc).1
  unfold Memory.write
  split
  · exact ⟨eraseCell_sorted _ h.1, he⟩
  · rename_i hv
    refine ⟨insertCell_sorted _ _ (eraseCell_sorted _ h.1) fun c hc => (mem_eraseCell hc).2, fun c hc => ?_⟩
    rcases mem_insertCell hc with rfl | hc
    · exact ⟨a.isLt, hv⟩
    · exact he c hc

/-- Loading words one after another keeps the canonical form. -/
theorem Memory.writeWords_wf {m : Memory} (a : Word) (ws : List Word) (h : m.wf = true) :
    (m.writeWords a ws).wf = true := by
  induction ws generalizing m a with
  | nil => exact h
  | cons w rest ih => exact ih (a + 1) (Memory.write_wf a w h)

/-- The memory of the reset state is in canonical form. -/
theorem reset_mem_wf : State.reset.mem.wf = true := by decide

end Sys2Proof.Machine
end

