-- ==== Sys2Proof/Laws/State.lean ====
section
/-!
SUPPORT. One lemma per field per update of the state, each true by rfl, so that no proof unfolds a record
update; and how a register reads after each update that writes or keeps the registers.
-/

namespace Sys2Proof.Machine

/-! ### setReg -/

@[simp] theorem setReg_pc (s : State) (r : RegIdx) (v : Word) : (s.setReg r v).pc = s.pc := rfl
@[simp] theorem setReg_cond (s : State) (r : RegIdx) (v : Word) : (s.setReg r v).cond = s.cond := rfl
@[simp] theorem setReg_halted (s : State) (r : RegIdx) (v : Word) : (s.setReg r v).halted = s.halted := rfl
@[simp] theorem setReg_run (s : State) (r : RegIdx) (v : Word) : (s.setReg r v).run = s.run := rfl
@[simp] theorem setReg_mem (s : State) (r : RegIdx) (v : Word) : (s.setReg r v).mem = s.mem := rfl
@[simp] theorem setReg_inq (s : State) (r : RegIdx) (v : Word) : (s.setReg r v).inq = s.inq := rfl
@[simp] theorem setReg_closed (s : State) (r : RegIdx) (v : Word) : (s.setReg r v).closed = s.closed := rfl
@[simp] theorem setReg_out (s : State) (r : RegIdx) (v : Word) : (s.setReg r v).out = s.out := rfl
@[simp] theorem setReg_delivered (s : State) (r : RegIdx) (v : Word) : (s.setReg r v).delivered = s.delivered := rfl
@[simp] theorem setReg_abortReason (s : State) (r : RegIdx) (v : Word) : (s.setReg r v).abortReason = s.abortReason := rfl
@[simp] theorem setReg_wait (s : State) (r : RegIdx) (v : Word) : (s.setReg r v).wait = s.wait := rfl
@[simp] theorem setReg_script (s : State) (r : RegIdx) (v : Word) : (s.setReg r v).script = s.script := rfl
@[simp] theorem setReg_draws (s : State) (r : RegIdx) (v : Word) : (s.setReg r v).draws = s.draws := rfl
@[simp] theorem setReg_par (s : State) (r : RegIdx) (v : Word) : (s.setReg r v).par = s.par := rfl

/-! ### setPc -/

@[simp] theorem setPc_x (s : State) (t : Word) : (s.setPc t).x = s.x := rfl
@[simp] theorem setPc_pc (s : State) (t : Word) : (s.setPc t).pc = t := rfl
@[simp] theorem setPc_cond (s : State) (t : Word) : (s.setPc t).cond = s.cond := rfl
@[simp] theorem setPc_halted (s : State) (t : Word) : (s.setPc t).halted = s.halted := rfl
@[simp] theorem setPc_run (s : State) (t : Word) : (s.setPc t).run = s.run := rfl
@[simp] theorem setPc_mem (s : State) (t : Word) : (s.setPc t).mem = s.mem := rfl
@[simp] theorem setPc_inq (s : State) (t : Word) : (s.setPc t).inq = s.inq := rfl
@[simp] theorem setPc_closed (s : State) (t : Word) : (s.setPc t).closed = s.closed := rfl
@[simp] theorem setPc_out (s : State) (t : Word) : (s.setPc t).out = s.out := rfl
@[simp] theorem setPc_delivered (s : State) (t : Word) : (s.setPc t).delivered = s.delivered := rfl
@[simp] theorem setPc_abortReason (s : State) (t : Word) : (s.setPc t).abortReason = s.abortReason := rfl
@[simp] theorem setPc_wait (s : State) (t : Word) : (s.setPc t).wait = s.wait := rfl
@[simp] theorem setPc_script (s : State) (t : Word) : (s.setPc t).script = s.script := rfl
@[simp] theorem setPc_draws (s : State) (t : Word) : (s.setPc t).draws = s.draws := rfl
@[simp] theorem setPc_par (s : State) (t : Word) : (s.setPc t).par = s.par := rfl
@[simp] theorem setPc_reg (s : State) (t : Word) (q : RegIdx) : (s.setPc t).reg q = s.reg q := rfl

/-! ### updateCondition -/

@[simp] theorem updateCondition_x (s : State) (r : RegIdx) : (s.updateCondition r).x = s.x := rfl
@[simp] theorem updateCondition_pc (s : State) (r : RegIdx) : (s.updateCondition r).pc = s.pc := rfl
@[simp] theorem updateCondition_cond (s : State) (r : RegIdx) : (s.updateCondition r).cond = condOf (s.reg r) := rfl
@[simp] theorem updateCondition_halted (s : State) (r : RegIdx) : (s.updateCondition r).halted = s.halted := rfl
@[simp] theorem updateCondition_run (s : State) (r : RegIdx) : (s.updateCondition r).run = s.run := rfl
@[simp] theorem updateCondition_mem (s : State) (r : RegIdx) : (s.updateCondition r).mem = s.mem := rfl
@[simp] theorem updateCondition_inq (s : State) (r : RegIdx) : (s.updateCondition r).inq = s.inq := rfl
@[simp] theorem updateCondition_closed (s : State) (r : RegIdx) : (s.updateCondition r).closed = s.closed := rfl
@[simp] theorem updateCondition_out (s : State) (r : RegIdx) : (s.updateCondition r).out = s.out := rfl
@[simp] theorem updateCondition_delivered (s : State) (r : RegIdx) : (s.updateCondition r).delivered = s.delivered := rfl
@[simp] theorem updateCondition_abortReason (s : State) (r : RegIdx) : (s.updateCondition r).abortReason = s.abortReason := rfl
@[simp] theorem updateCondition_wait (s : State) (r : RegIdx) : (s.updateCondition r).wait = s.wait := rfl
@[simp] theorem updateCondition_script (s : State) (r : RegIdx) : (s.updateCondition r).script = s.script := rfl
@[simp] theorem updateCondition_draws (s : State) (r : RegIdx) : (s.updateCondition r).draws = s.draws := rfl
@[simp] theorem updateCondition_par (s : State) (r : RegIdx) : (s.updateCondition r).par = s.par := rfl
@[simp] theorem updateCondition_reg (s : State) (r : RegIdx) (q : RegIdx) : (s.updateCondition r).reg q = s.reg q := rfl

/-! ### setRegCond -/

@[simp] theorem setRegCond_pc (s : State) (r : RegIdx) (v : Word) : (s.setRegCond r v).pc = s.pc := rfl
@[simp] theorem setRegCond_halted (s : State) (r : RegIdx) (v : Word) : (s.setRegCond r v).halted = s.halted := rfl
@[simp] theorem setRegCond_run (s : State) (r : RegIdx) (v : Word) : (s.setRegCond r v).run = s.run := rfl
@[simp] theorem setRegCond_mem (s : State) (r : RegIdx) (v : Word) : (s.setRegCond r v).mem = s.mem := rfl
@[simp] theorem setRegCond_inq (s : State) (r : RegIdx) (v : Word) : (s.setRegCond r v).inq = s.inq := rfl
@[simp] theorem setRegCond_closed (s : State) (r : RegIdx) (v : Word) : (s.setRegCond r v).closed = s.closed := rfl
@[simp] theorem setRegCond_out (s : State) (r : RegIdx) (v : Word) : (s.setRegCond r v).out = s.out := rfl
@[simp] theorem setRegCond_delivered (s : State) (r : RegIdx) (v : Word) : (s.setRegCond r v).delivered = s.delivered := rfl
@[simp] theorem setRegCond_abortReason (s : State) (r : RegIdx) (v : Word) : (s.setRegCond r v).abortReason = s.abortReason := rfl
@[simp] theorem setRegCond_wait (s : State) (r : RegIdx) (v : Word) : (s.setRegCond r v).wait = s.wait := rfl
@[simp] theorem setRegCond_script (s : State) (r : RegIdx) (v : Word) : (s.setRegCond r v).script = s.script := rfl
@[simp] theorem setRegCond_draws (s : State) (r : RegIdx) (v : Word) : (s.setRegCond r v).draws = s.draws := rfl
@[simp] theorem setRegCond_par (s : State) (r : RegIdx) (v : Word) : (s.setRegCond r v).par = s.par := rfl

/-! ### memWrite -/

@[simp] theorem memWrite_x (s : State) (a v : Word) : (s.memWrite a v).x = s.x := rfl
@[simp] theorem memWrite_pc (s : State) (a v : Word) : (s.memWrite a v).pc = s.pc := rfl
@[simp] theorem memWrite_cond (s : State) (a v : Word) : (s.memWrite a v).cond = s.cond := rfl
@[simp] theorem memWrite_halted (s : State) (a v : Word) : (s.memWrite a v).halted = s.halted := rfl
@[simp] theorem memWrite_run (s : State) (a v : Word) : (s.memWrite a v).run = s.run := rfl
@[simp] theorem memWrite_mem (s : State) (a v : Word) : (s.memWrite a v).mem = s.mem.write a v := rfl
@[simp] theorem memWrite_inq (s : State) (a v : Word) : (s.memWrite a v).inq = s.inq := rfl
@[simp] theorem memWrite_closed (s : State) (a v : Word) : (s.memWrite a v).closed = s.closed := rfl
@[simp] theorem memWrite_out (s : State) (a v : Word) : (s.memWrite a v).out = s.out := rfl
@[simp] theorem memWrite_delivered (s : State) (a v : Word) : (s.memWrite a v).delivered = s.delivered := rfl
@[simp] theorem memWrite_abortReason (s : State) (a v : Word) : (s.memWrite a v).abortReason = s.abortReason := rfl
@[simp] theorem memWrite_wait (s : State) (a v : Word) : (s.memWrite a v).wait = s.wait := rfl
@[simp] theorem memWrite_script (s : State) (a v : Word) : (s.memWrite a v).script = s.script := rfl
@[simp] theorem memWrite_draws (s : State) (a v : Word) : (s.memWrite a v).draws = s.draws := rfl
@[simp] theorem memWrite_par (s : State) (a v : Word) : (s.memWrite a v).par = s.par := rfl
@[simp] theorem memWrite_reg (s : State) (a v : Word) (q : RegIdx) : (s.memWrite a v).reg q = s.reg q := rfl

/-! ### put -/

@[simp] theorem put_x (s : State) (bs : List Byte) : (s.put bs).x = s.x := rfl
@[simp] theorem put_pc (s : State) (bs : List Byte) : (s.put bs).pc = s.pc := rfl
@[simp] theorem put_cond (s : State) (bs : List Byte) : (s.put bs).cond = s.cond := rfl
@[simp] theorem put_halted (s : State) (bs : List Byte) : (s.put bs).halted = s.halted := rfl
@[simp] theorem put_run (s : State) (bs : List Byte) : (s.put bs).run = s.run := rfl
@[simp] theorem put_mem (s : State) (bs : List Byte) : (s.put bs).mem = s.mem := rfl
@[simp] theorem put_inq (s : State) (bs : List Byte) : (s.put bs).inq = s.inq := rfl
@[simp] theorem put_closed (s : State) (bs : List Byte) : (s.put bs).closed = s.closed := rfl
@[simp] theorem put_out (s : State) (bs : List Byte) : (s.put bs).out = s.out ++ bs := rfl
@[simp] theorem put_delivered (s : State) (bs : List Byte) : (s.put bs).delivered = s.delivered := rfl
@[simp] theorem put_abortReason (s : State) (bs : List Byte) : (s.put bs).abortReason = s.abortReason := rfl
@[simp] theorem put_wait (s : State) (bs : List Byte) : (s.put bs).wait = s.wait := rfl
@[simp] theorem put_script (s : State) (bs : List Byte) : (s.put bs).script = s.script := rfl
@[simp] theorem put_draws (s : State) (bs : List Byte) : (s.put bs).draws = s.draws := rfl
@[simp] theorem put_par (s : State) (bs : List Byte) : (s.put bs).par = s.par := rfl
@[simp] theorem put_reg (s : State) (bs : List Byte) (q : RegIdx) : (s.put bs).reg q = s.reg q := rfl

/-! ### flush -/

@[simp] theorem flush_x (s : State) : s.flush.x = s.x := rfl
@[simp] theorem flush_pc (s : State) : s.flush.pc = s.pc := rfl
@[simp] theorem flush_cond (s : State) : s.flush.cond = s.cond := rfl
@[simp] theorem flush_halted (s : State) : s.flush.halted = s.halted := rfl
@[simp] theorem flush_run (s : State) : s.flush.run = s.run := rfl
@[simp] theorem flush_mem (s : State) : s.flush.mem = s.mem := rfl
@[simp] theorem flush_inq (s : State) : s.flush.inq = s.inq := rfl
@[simp] theorem flush_closed (s : State) : s.flush.closed = s.closed := rfl
@[simp] theorem flush_out (s : State) : s.flush.out = s.out := rfl
@[simp] theorem flush_delivered (s : State) : s.flush.delivered = s.out.length := rfl
@[simp] theorem flush_abortReason (s : State) : s.flush.abortReason = s.abortReason := rfl
@[simp] theorem flush_wait (s : State) : s.flush.wait = s.wait := rfl
@[simp] theorem flush_script (s : State) : s.flush.script = s.script := rfl
@[simp] theorem flush_draws (s : State) : s.flush.draws = s.draws := rfl
@[simp] theorem flush_par (s : State) : s.flush.par = s.par := rfl
@[simp] theorem flush_reg (s : State) (q : RegIdx) : s.flush.reg q = s.reg q := rfl

/-! ### abort -/

@[simp] theorem abort_x (s : State) (e : AbortReason) : (s.abort e).x = s.x := rfl
@[simp] theorem abort_pc (s : State) (e : AbortReason) : (s.abort e).pc = s.pc := rfl
@[simp] theorem abort_cond (s : State) (e : AbortReason) : (s.abort e).cond = s.cond := rfl
@[simp] theorem abort_halted (s : State) (e : AbortReason) : (s.abort e).halted = s.halted := rfl
@[simp] theorem abort_run (s : State) (e : AbortReason) : (s.abort e).run = .aborted := rfl
@[simp] theorem abort_mem (s : State) (e : AbortReason) : (s.abort e).mem = s.mem := rfl
@[simp] theorem abort_inq (s : State) (e : AbortReason) : (s.abort e).inq = s.inq := rfl
@[simp] theorem abort_closed (s : State) (e : AbortReason) : (s.abort e).closed = s.closed := rfl
@[simp] theorem abort_out (s : State) (e : AbortReason) : (s.abort e).out = s.out := rfl
@[simp] theorem abort_delivered (s : State) (e : AbortReason) : (s.abort e).delivered = s.delivered := rfl
@[simp] theorem abort_abortReason (s : State) (e : AbortReason) : (s.abort e).abortReason = some e := rfl
@[simp] theorem abort_wait (s : State) (e : AbortReason) : (s.abort e).wait = s.wait := rfl
@[simp] theorem abort_script (s : State) (e : AbortReason) : (s.abort e).script = s.script := rfl
@[simp] theorem abort_draws (s : State) (e : AbortReason) : (s.abort e).draws = s.draws := rfl
@[simp] theorem abort_par (s : State) (e : AbortReason) : (s.abort e).par = s.par := rfl
@[simp] theorem abort_reg (s : State) (e : AbortReason) (q : RegIdx) : (s.abort e).reg q = s.reg q := rfl

/-! ### interrupt -/

@[simp] theorem interrupt_x (s : State) : s.interrupt.x = s.x := rfl
@[simp] theorem interrupt_pc (s : State) : s.interrupt.pc = s.pc := rfl
@[simp] theorem interrupt_cond (s : State) : s.interrupt.cond = s.cond := rfl
@[simp] theorem interrupt_halted (s : State) : s.interrupt.halted = s.halted := rfl
@[simp] theorem interrupt_run (s : State) : s.interrupt.run = .interrupted := rfl
@[simp] theorem interrupt_mem (s : State) : s.interrupt.mem = s.mem := rfl
@[simp] theorem interrupt_inq (s : State) : s.interrupt.inq = s.inq := rfl
@[simp] theorem interrupt_closed (s : State) : s.interrupt.closed = s.closed := rfl
@[simp] theorem interrupt_out (s : State) : s.interrupt.out = s.out := rfl
@[simp] theorem interrupt_delivered (s : State) : s.interrupt.delivered = s.delivered := rfl
@[simp] theorem interrupt_abortReason (s : State) : s.interrupt.abortReason = s.abortReason := rfl
@[simp] theorem interrupt_wait (s : State) : s.interrupt.wait = s.wait := rfl
@[simp] theorem interrupt_script (s : State) : s.interrupt.script = s.script := rfl
@[simp] theorem interrupt_draws (s : State) : s.interrupt.draws = s.draws := rfl
@[simp] theorem interrupt_par (s : State) : s.interrupt.par = s.par := rfl
@[simp] theorem interrupt_reg (s : State) (q : RegIdx) : s.interrupt.reg q = s.reg q := rfl

/-! ### link -/

@[simp] theorem link_pc (s : State) : s.link.pc = s.pc := rfl
@[simp] theorem link_cond (s : State) : s.link.cond = s.cond := rfl
@[simp] theorem link_halted (s : State) : s.link.halted = s.halted := rfl
@[simp] theorem link_run (s : State) : s.link.run = s.run := rfl
@[simp] theorem link_mem (s : State) : s.link.mem = s.mem := rfl
@[simp] theorem link_inq (s : State) : s.link.inq = s.inq := rfl
@[simp] theorem link_closed (s : State) : s.link.closed = s.closed := rfl
@[simp] theorem link_out (s : State) : s.link.out = s.out := rfl
@[simp] theorem link_delivered (s : State) : s.link.delivered = s.delivered := rfl
@[simp] theorem link_abortReason (s : State) : s.link.abortReason = s.abortReason := rfl
@[simp] theorem link_wait (s : State) : s.link.wait = s.wait := rfl
@[simp] theorem link_script (s : State) : s.link.script = s.script := rfl
@[simp] theorem link_draws (s : State) : s.link.draws = s.draws := rfl
@[simp] theorem link_par (s : State) : s.link.par = s.par := rfl

/-! ### trapLink -/

@[simp] theorem trapLink_pc (s : State) : s.trapLink.pc = s.pc := rfl
@[simp] theorem trapLink_cond (s : State) : s.trapLink.cond = s.cond := rfl
@[simp] theorem trapLink_halted (s : State) : s.trapLink.halted = s.halted := rfl
@[simp] theorem trapLink_run (s : State) : s.trapLink.run = s.run := rfl
@[simp] theorem trapLink_mem (s : State) : s.trapLink.mem = s.mem := rfl
@[simp] theorem trapLink_inq (s : State) : s.trapLink.inq = s.inq := rfl
@[simp] theorem trapLink_closed (s : State) : s.trapLink.closed = s.closed := rfl
@[simp] theorem trapLink_out (s : State) : s.trapLink.out = s.out := rfl
@[simp] theorem trapLink_delivered (s : State) : s.trapLink.delivered = s.delivered := rfl
@[simp] theorem trapLink_abortReason (s : State) : s.trapLink.abortReason = s.abortReason := rfl
@[simp] theorem trapLink_wait (s : State) : s.trapLink.wait = s.wait := rfl
@[simp] theorem trapLink_script (s : State) : s.trapLink.script = s.script := rfl
@[simp] theorem trapLink_draws (s : State) : s.trapLink.draws = s.draws := rfl
@[simp] theorem trapLink_par (s : State) : s.trapLink.par = s.par := rfl

/-! ### strictLink -/

@[simp] theorem strictLink_pc (s : State) : s.strictLink.pc = s.pc := rfl
@[simp] theorem strictLink_cond (s : State) : s.strictLink.cond = s.cond := rfl
@[simp] theorem strictLink_halted (s : State) : s.strictLink.halted = s.halted := rfl
@[simp] theorem strictLink_run (s : State) : s.strictLink.run = s.run := rfl
@[simp] theorem strictLink_mem (s : State) : s.strictLink.mem = s.mem := rfl
@[simp] theorem strictLink_inq (s : State) : s.strictLink.inq = s.inq := rfl
@[simp] theorem strictLink_closed (s : State) : s.strictLink.closed = s.closed := rfl
@[simp] theorem strictLink_out (s : State) : s.strictLink.out = s.out := rfl
@[simp] theorem strictLink_delivered (s : State) : s.strictLink.delivered = s.delivered := rfl
@[simp] theorem strictLink_abortReason (s : State) : s.strictLink.abortReason = s.abortReason := rfl
@[simp] theorem strictLink_wait (s : State) : s.strictLink.wait = s.wait := rfl
@[simp] theorem strictLink_script (s : State) : s.strictLink.script = s.script := rfl
@[simp] theorem strictLink_draws (s : State) : s.strictLink.draws = s.draws := rfl
@[simp] theorem strictLink_par (s : State) : s.strictLink.par = s.par := rfl

/-! ### hostClose -/

@[simp] theorem hostClose_x (s : State) : s.hostClose.x = s.x := rfl
@[simp] theorem hostClose_pc (s : State) : s.hostClose.pc = s.pc := rfl
@[simp] theorem hostClose_cond (s : State) : s.hostClose.cond = s.cond := rfl
@[simp] theorem hostClose_halted (s : State) : s.hostClose.halted = s.halted := rfl
@[simp] theorem hostClose_run (s : State) : s.hostClose.run = s.run := rfl
@[simp] theorem hostClose_mem (s : State) : s.hostClose.mem = s.mem := rfl
@[simp] theorem hostClose_inq (s : State) : s.hostClose.inq = s.inq := rfl
@[simp] theorem hostClose_closed (s : State) : s.hostClose.closed = true := rfl
@[simp] theorem hostClose_out (s : State) : s.hostClose.out = s.out := rfl
@[simp] theorem hostClose_delivered (s : State) : s.hostClose.delivered = s.delivered := rfl
@[simp] theorem hostClose_abortReason (s : State) : s.hostClose.abortReason = s.abortReason := rfl
@[simp] theorem hostClose_wait (s : State) : s.hostClose.wait = s.wait := rfl
@[simp] theorem hostClose_script (s : State) : s.hostClose.script = s.script := rfl
@[simp] theorem hostClose_draws (s : State) : s.hostClose.draws = s.draws := rfl
@[simp] theorem hostClose_par (s : State) : s.hostClose.par = s.par := rfl
@[simp] theorem hostClose_reg (s : State) (q : RegIdx) : s.hostClose.reg q = s.reg q := rfl

/-! ### Reading a register after a write -/

/-- A register written reads as the value; every other register is unchanged. -/
theorem setReg_reg (s : State) (r : RegIdx) (v : Word) (q : RegIdx) :
    (s.setReg r v).reg q = if q = r then v else s.reg q := by
  have h : q = r ↔ r.toNat = q.toNat := by rw [BitVec.toNat_eq, eq_comm]
  simp only [State.reg, State.setReg, Vector.getElem_set, h]

@[simp] theorem setReg_reg_same (s : State) (r : RegIdx) (v : Word) : (s.setReg r v).reg r = v := by
  rw [setReg_reg, if_pos rfl]

theorem setReg_reg_ne {r q : RegIdx} (s : State) (v : Word) (h : q ≠ r) :
    (s.setReg r v).reg q = s.reg q := by
  rw [setReg_reg, if_neg h]

theorem setRegCond_reg (s : State) (r : RegIdx) (v : Word) (q : RegIdx) :
    (s.setRegCond r v).reg q = if q = r then v else s.reg q :=
  setReg_reg s r v q

/-- The condition code comes from the value just written (R29). -/
@[simp] theorem setRegCond_cond (s : State) (r : RegIdx) (v : Word) : (s.setRegCond r v).cond = condOf v := by
  simp [State.setRegCond]

/-- R7 after a JSR or JSRR link; every other register is unchanged. -/
theorem link_reg (s : State) (q : RegIdx) : s.link.reg q = if q = 7#3 then s.pc else s.reg q :=
  setReg_reg s 7#3 s.pc q

/-- R7 after a TRAP (R161); every other register is unchanged. -/
theorem trapLink_reg (s : State) (q : RegIdx) :
    s.trapLink.reg q = if q = 7#3 ∧ s.par.trapLinksR7 = true then s.pc else s.reg q := by
  rw [State.trapLink, setReg_reg]
  by_cases h : q = 7#3 <;> by_cases k : s.par.trapLinksR7 = true <;> simp [h, k]

theorem strictLink_reg (s : State) (q : RegIdx) : s.strictLink.reg q =
    if q = 7#3 ∧ s.par.trapLinksR7 = true ∧ s.par.strictTrapLinks = true then s.pc else s.reg q := by
  rw [State.strictLink, setReg_reg]
  by_cases h : q = 7#3 <;> by_cases k : s.par.trapLinksR7 = true ∧ s.par.strictTrapLinks = true <;> simp [h, k]

@[simp] theorem trapLink_reg_zero (s : State) : s.trapLink.reg 0#3 = s.reg 0#3 := by
  rw [trapLink_reg, if_neg]
  rintro ⟨h, -⟩
  exact absurd h (by decide)

end Sys2Proof.Machine
end

