-- ==== Sys2Proof/Laws/Ops.lean ====
section
/-!
SUPPORT. What the shared operations of Machine/Ops.lean can do, said once each: the ports, the keyboard
refresh, the memory read, the fetch and the puts of a routine.
-/

namespace Sys2Proof.Machine

/-- Everything a poll can do (R37). -/
theorem poll_cases (s : State) :
    (s.inq ≠ [] ∧ s.poll = (true, s)) ∨ (s.inq = [] ∧ s.closed = false ∧ s.poll = (false, s)) ∨
      (s.inq = [] ∧ s.closed = true ∧
        s.poll = (Config.pollDraw s.draws, { s with draws := s.draws + 1 })) := by
  unfold State.poll
  rcases hq : s.inq with _ | ⟨b, rest⟩ <;> rcases hc : s.closed with _ | _ <;> simp

/-- Everything a consume can do (R37). -/
theorem consume_cases (s : State) :
    (∃ b rest, s.inq = b :: rest ∧ s.consume = some (zext16 b, { s with inq := rest })) ∨
      (s.inq = [] ∧ s.closed = true ∧ s.consume = some (s.par.eofWord, s)) ∨
      (s.inq = [] ∧ s.closed = false ∧ s.consume = none) := by
  unfold State.consume
  rcases hq : s.inq with _ | ⟨b, rest⟩ <;> rcases hc : s.closed with _ | _ <;> simp

/-- A consume that answers keeps everything but the input. -/
theorem consume_some {s t : State} {v : Word} (h : s.consume = some (v, t)) :
    t = { s with inq := t.inq } := by
  rcases consume_cases s with ⟨b, rest, -, e⟩ | ⟨-, -, e⟩ | ⟨-, -, e⟩ <;> rw [e] at h <;> cases h <;> rfl

/-- Everything the refresh of the keyboard cells can do (R54). -/
theorem refreshKeyboard_cases (s : State) :
    (∃ b rest, s.inq = b :: rest ∧ s.refreshKeyboard =
        (State.memWrite { s with inq := rest } s.par.kbsrAddr 0x8000#16).memWrite s.par.kbdrAddr (zext16 b)) ∨
      (s.inq = [] ∧ s.closed = false ∧ s.refreshKeyboard = s.memWrite s.par.kbsrAddr 0x0000#16) ∨
      (s.inq = [] ∧ s.closed = true ∧ Config.pollDraw s.draws = true ∧ s.refreshKeyboard =
        (State.memWrite { s with draws := s.draws + 1 } s.par.kbsrAddr 0x8000#16).memWrite
          s.par.kbdrAddr s.par.eofWord) ∨
      (s.inq = [] ∧ s.closed = true ∧ Config.pollDraw s.draws = false ∧ s.refreshKeyboard =
        State.memWrite { s with draws := s.draws + 1 } s.par.kbsrAddr 0x0000#16) := by
  unfold State.refreshKeyboard State.poll
  rcases hq : s.inq with _ | ⟨b, rest⟩
  · rcases hc : s.closed with _ | _
    · simp
    · rcases hd : Config.pollDraw s.draws with _ | _ <;> simp [State.consume]
  · simp [State.consume, hq]

/-- The refresh keeps memory in canonical form. -/
theorem refreshKeyboard_wf {s : State} (h : s.mem.wf = true) : s.refreshKeyboard.mem.wf = true := by
  rcases refreshKeyboard_cases s with ⟨b, rest, -, e⟩ | ⟨-, -, e⟩ | ⟨-, -, -, e⟩ | ⟨-, -, -, e⟩ <;> rw [e] <;>
    repeat' first | exact h | apply Memory.write_wf

/-- The refresh changes no cell but the two keyboard cells (R64). -/
theorem refreshKeyboard_read {s : State} {a : Word} (h : a ≠ s.par.kbsrAddr) (h' : a ≠ s.par.kbdrAddr) :
    s.refreshKeyboard.mem.read a = s.mem.read a := by
  rcases refreshKeyboard_cases s with ⟨b, rest, -, e⟩ | ⟨-, -, e⟩ | ⟨-, -, -, e⟩ | ⟨-, -, -, e⟩ <;> rw [e] <;>
    simp [Memory.read_write_ne, h, h']

/-- A read of any other cell changes nothing (R52). -/
theorem memRead_of_ne {s : State} {a : Word} (h : a ≠ s.par.kbsrAddr) :
    s.memRead a = (s.mem.read a, s) := if_neg h

/-- A read of the keyboard-status cell refreshes, then reads (R54). -/
theorem memRead_of_eq {s : State} {a : Word} (h : a = s.par.kbsrAddr) :
    s.memRead a = (s.refreshKeyboard.mem.read a, s.refreshKeyboard) := if_pos h

/-- The value a read answers is what the cell holds after it. -/
theorem memRead_value (s : State) (a : Word) : (s.memRead a).1 = (s.memRead a).2.mem.read a := by
  unfold State.memRead; split <;> rfl

/-- A read keeps memory in canonical form. -/
theorem memRead_wf {s : State} (a : Word) (h : s.mem.wf = true) : (s.memRead a).2.mem.wf = true := by
  unfold State.memRead; split
  · exact refreshKeyboard_wf h
  · exact h

@[simp] theorem refreshKeyboard_x (s : State) : s.refreshKeyboard.x = s.x := by
  rcases refreshKeyboard_cases s with ⟨b, rest, -, e⟩ | ⟨-, -, e⟩ | ⟨-, -, -, e⟩ | ⟨-, -, -, e⟩ <;> rw [e] <;> rfl
@[simp] theorem memRead_x (s : State) (a : Word) : (s.memRead a).2.x = s.x := by
  unfold State.memRead; split
  · exact refreshKeyboard_x s
  · rfl
@[simp] theorem refreshKeyboard_pc (s : State) : s.refreshKeyboard.pc = s.pc := by
  rcases refreshKeyboard_cases s with ⟨b, rest, -, e⟩ | ⟨-, -, e⟩ | ⟨-, -, -, e⟩ | ⟨-, -, -, e⟩ <;> rw [e] <;> rfl
@[simp] theorem memRead_pc (s : State) (a : Word) : (s.memRead a).2.pc = s.pc := by
  unfold State.memRead; split
  · exact refreshKeyboard_pc s
  · rfl
@[simp] theorem refreshKeyboard_cond (s : State) : s.refreshKeyboard.cond = s.cond := by
  rcases refreshKeyboard_cases s with ⟨b, rest, -, e⟩ | ⟨-, -, e⟩ | ⟨-, -, -, e⟩ | ⟨-, -, -, e⟩ <;> rw [e] <;> rfl
@[simp] theorem memRead_cond (s : State) (a : Word) : (s.memRead a).2.cond = s.cond := by
  unfold State.memRead; split
  · exact refreshKeyboard_cond s
  · rfl
@[simp] theorem refreshKeyboard_halted (s : State) : s.refreshKeyboard.halted = s.halted := by
  rcases refreshKeyboard_cases s with ⟨b, rest, -, e⟩ | ⟨-, -, e⟩ | ⟨-, -, -, e⟩ | ⟨-, -, -, e⟩ <;> rw [e] <;> rfl
@[simp] theorem memRead_halted (s : State) (a : Word) : (s.memRead a).2.halted = s.halted := by
  unfold State.memRead; split
  · exact refreshKeyboard_halted s
  · rfl
@[simp] theorem refreshKeyboard_run (s : State) : s.refreshKeyboard.run = s.run := by
  rcases refreshKeyboard_cases s with ⟨b, rest, -, e⟩ | ⟨-, -, e⟩ | ⟨-, -, -, e⟩ | ⟨-, -, -, e⟩ <;> rw [e] <;> rfl
@[simp] theorem memRead_run (s : State) (a : Word) : (s.memRead a).2.run = s.run := by
  unfold State.memRead; split
  · exact refreshKeyboard_run s
  · rfl
@[simp] theorem refreshKeyboard_closed (s : State) : s.refreshKeyboard.closed = s.closed := by
  rcases refreshKeyboard_cases s with ⟨b, rest, -, e⟩ | ⟨-, -, e⟩ | ⟨-, -, -, e⟩ | ⟨-, -, -, e⟩ <;> rw [e] <;> rfl
@[simp] theorem memRead_closed (s : State) (a : Word) : (s.memRead a).2.closed = s.closed := by
  unfold State.memRead; split
  · exact refreshKeyboard_closed s
  · rfl
@[simp] theorem refreshKeyboard_out (s : State) : s.refreshKeyboard.out = s.out := by
  rcases refreshKeyboard_cases s with ⟨b, rest, -, e⟩ | ⟨-, -, e⟩ | ⟨-, -, -, e⟩ | ⟨-, -, -, e⟩ <;> rw [e] <;> rfl
@[simp] theorem memRead_out (s : State) (a : Word) : (s.memRead a).2.out = s.out := by
  unfold State.memRead; split
  · exact refreshKeyboard_out s
  · rfl
@[simp] theorem refreshKeyboard_delivered (s : State) : s.refreshKeyboard.delivered = s.delivered := by
  rcases refreshKeyboard_cases s with ⟨b, rest, -, e⟩ | ⟨-, -, e⟩ | ⟨-, -, -, e⟩ | ⟨-, -, -, e⟩ <;> rw [e] <;> rfl
@[simp] theorem memRead_delivered (s : State) (a : Word) : (s.memRead a).2.delivered = s.delivered := by
  unfold State.memRead; split
  · exact refreshKeyboard_delivered s
  · rfl
@[simp] theorem refreshKeyboard_abortReason (s : State) : s.refreshKeyboard.abortReason = s.abortReason := by
  rcases refreshKeyboard_cases s with ⟨b, rest, -, e⟩ | ⟨-, -, e⟩ | ⟨-, -, -, e⟩ | ⟨-, -, -, e⟩ <;> rw [e] <;> rfl
@[simp] theorem memRead_abortReason (s : State) (a : Word) : (s.memRead a).2.abortReason = s.abortReason := by
  unfold State.memRead; split
  · exact refreshKeyboard_abortReason s
  · rfl
@[simp] theorem refreshKeyboard_wait (s : State) : s.refreshKeyboard.wait = s.wait := by
  rcases refreshKeyboard_cases s with ⟨b, rest, -, e⟩ | ⟨-, -, e⟩ | ⟨-, -, -, e⟩ | ⟨-, -, -, e⟩ <;> rw [e] <;> rfl
@[simp] theorem memRead_wait (s : State) (a : Word) : (s.memRead a).2.wait = s.wait := by
  unfold State.memRead; split
  · exact refreshKeyboard_wait s
  · rfl
@[simp] theorem refreshKeyboard_script (s : State) : s.refreshKeyboard.script = s.script := by
  rcases refreshKeyboard_cases s with ⟨b, rest, -, e⟩ | ⟨-, -, e⟩ | ⟨-, -, -, e⟩ | ⟨-, -, -, e⟩ <;> rw [e] <;> rfl
@[simp] theorem memRead_script (s : State) (a : Word) : (s.memRead a).2.script = s.script := by
  unfold State.memRead; split
  · exact refreshKeyboard_script s
  · rfl
@[simp] theorem refreshKeyboard_par (s : State) : s.refreshKeyboard.par = s.par := by
  rcases refreshKeyboard_cases s with ⟨b, rest, -, e⟩ | ⟨-, -, e⟩ | ⟨-, -, -, e⟩ | ⟨-, -, -, e⟩ <;> rw [e] <;> rfl
@[simp] theorem memRead_par (s : State) (a : Word) : (s.memRead a).2.par = s.par := by
  unfold State.memRead; split
  · exact refreshKeyboard_par s
  · rfl

@[simp] theorem memRead_reg (s : State) (a : Word) (r : RegIdx) : (s.memRead a).2.reg r = s.reg r := by
  unfold State.reg; simp only [memRead_x]

/-- The fetch advances `pc` by one cell, modulo 65,536 (R23, R25). -/
@[simp] theorem fetch_pc (s : State) : s.fetch.2.pc = s.pc + 1 := by simp [State.fetch]

/-- A fetch from any cell but the keyboard-status cell only advances `pc`. -/
theorem fetch_of_ne {s : State} (h : s.pc ≠ s.par.kbsrAddr) :
    s.fetch = (s.mem.read s.pc, s.setPc (s.pc + 1)) := by
  simp [State.fetch, memRead_of_ne h]

/-- A fetch keeps memory in canonical form. -/
theorem fetch_wf {s : State} (h : s.mem.wf = true) : s.fetch.2.mem.wf = true := memRead_wf s.pc h

@[simp] theorem fetch_x (s : State) : s.fetch.2.x = s.x := by simp [State.fetch]
@[simp] theorem fetch_cond (s : State) : s.fetch.2.cond = s.cond := by simp [State.fetch]
@[simp] theorem fetch_halted (s : State) : s.fetch.2.halted = s.halted := by simp [State.fetch]
@[simp] theorem fetch_run (s : State) : s.fetch.2.run = s.run := by simp [State.fetch]
@[simp] theorem fetch_closed (s : State) : s.fetch.2.closed = s.closed := by simp [State.fetch]
@[simp] theorem fetch_out (s : State) : s.fetch.2.out = s.out := by simp [State.fetch]
@[simp] theorem fetch_delivered (s : State) : s.fetch.2.delivered = s.delivered := by simp [State.fetch]
@[simp] theorem fetch_abortReason (s : State) : s.fetch.2.abortReason = s.abortReason := by simp [State.fetch]
@[simp] theorem fetch_wait (s : State) : s.fetch.2.wait = s.wait := by simp [State.fetch]
@[simp] theorem fetch_script (s : State) : s.fetch.2.script = s.script := by simp [State.fetch]
@[simp] theorem fetch_par (s : State) : s.fetch.2.par = s.par := by simp [State.fetch]

/-- Everything the puts of a routine can do: the stop falls between two of them, or the routine goes on. -/
theorem putThen_cases (s : State) (bs : List Byte) (later : Nat) (k : State → StepOutcome) :
    (0 < s.stopPoint ∧ s.stopPoint ≤ bs.length ∧ s.stopPoint < bs.length + later ∧
        s.putThen bs later k = .next (s.put (bs.take s.stopPoint)).interrupt) ∨
      s.putThen bs later k = k (s.put bs) := by
  unfold State.putThen; split
  · rename_i h; exact .inl ⟨h.1, h.2.1, h.2.2, rfl⟩
  · exact .inr rfl

/-- Where no stop signal falls inside, the routine goes on after its puts. -/
theorem putThen_of_no_stop {s : State} {bs : List Byte} {later : Nat} {k : State → StepOutcome}
    (h : ¬ (0 < s.stopPoint ∧ s.stopPoint ≤ bs.length ∧ s.stopPoint < bs.length + later)) :
    s.putThen bs later k = k (s.put bs) := if_neg h

end Sys2Proof.Machine
end

