-- ==== Sys2Proof/Laws/PerInstr.lean ====
section
/-!
SUPPORT. The family OpcodeField, one lemma per constructor of Instr: bits 15-12 of an instruction's
conventional word are the table's value of its opcode (rules R81 and R85).
-/

namespace Sys2Proof.Laws.OpcodeField

/-- Bits 15-12 of the encoded word are the opcode's value, under any two tables. -/
def Statement (i : Instr) : Prop :=
  ∀ (m : OpcodeMap) (tv : TrapVectors), fieldOpcode (encodeWith m tv i) = m.bits i.opcode

theorem addReg (dr : RegIdx) (sr1 : RegIdx) (sr2 : RegIdx) : Statement (.addReg dr sr1 sr2) := by
  simp [Statement, encodeWith, Instr.opcode, OpcodeMap.bits]

theorem addImm (dr : RegIdx) (sr1 : RegIdx) (imm5 : BitVec 5) : Statement (.addImm dr sr1 imm5) := by
  simp [Statement, encodeWith, Instr.opcode, OpcodeMap.bits]

theorem andReg (dr : RegIdx) (sr1 : RegIdx) (sr2 : RegIdx) : Statement (.andReg dr sr1 sr2) := by
  simp [Statement, encodeWith, Instr.opcode, OpcodeMap.bits]

theorem andImm (dr : RegIdx) (sr1 : RegIdx) (imm5 : BitVec 5) : Statement (.andImm dr sr1 imm5) := by
  simp [Statement, encodeWith, Instr.opcode, OpcodeMap.bits]

theorem not (dr : RegIdx) (sr : RegIdx) : Statement (.not dr sr) := by
  simp [Statement, encodeWith, Instr.opcode, OpcodeMap.bits]

theorem br (nzp : BitVec 3) (off : BitVec 9) : Statement (.br nzp off) := by
  simp [Statement, encodeWith, Instr.opcode, OpcodeMap.bits]

theorem jmp (base : RegIdx) : Statement (.jmp base) := by
  simp [Statement, encodeWith, Instr.opcode, OpcodeMap.bits]

theorem jsr (off : BitVec 11) : Statement (.jsr off) := by
  simp [Statement, encodeWith, Instr.opcode, OpcodeMap.bits]

theorem jsrr (base : RegIdx) : Statement (.jsrr base) := by
  simp [Statement, encodeWith, Instr.opcode, OpcodeMap.bits]

theorem ld (dr : RegIdx) (off : BitVec 9) : Statement (.ld dr off) := by
  simp [Statement, encodeWith, Instr.opcode, OpcodeMap.bits]

theorem ldi (dr : RegIdx) (off : BitVec 9) : Statement (.ldi dr off) := by
  simp [Statement, encodeWith, Instr.opcode, OpcodeMap.bits]

theorem ldr (dr : RegIdx) (base : RegIdx) (off : BitVec 6) : Statement (.ldr dr base off) := by
  simp [Statement, encodeWith, Instr.opcode, OpcodeMap.bits]

theorem lea (dr : RegIdx) (off : BitVec 9) : Statement (.lea dr off) := by
  simp [Statement, encodeWith, Instr.opcode, OpcodeMap.bits]

theorem st (sr : RegIdx) (off : BitVec 9) : Statement (.st sr off) := by
  simp [Statement, encodeWith, Instr.opcode, OpcodeMap.bits]

theorem sti (sr : RegIdx) (off : BitVec 9) : Statement (.sti sr off) := by
  simp [Statement, encodeWith, Instr.opcode, OpcodeMap.bits]

theorem str (sr : RegIdx) (base : RegIdx) (off : BitVec 6) : Statement (.str sr base off) := by
  simp [Statement, encodeWith, Instr.opcode, OpcodeMap.bits]

theorem trap (vect : BitVec 8) : Statement (.trap vect) := by
  simp [Statement, encodeWith, Instr.opcode, OpcodeMap.bits]

theorem trapGetc : Statement .trapGetc := by
  simp [Statement, encodeWith, Instr.opcode, OpcodeMap.bits]

theorem trapOut : Statement .trapOut := by
  simp [Statement, encodeWith, Instr.opcode, OpcodeMap.bits]

theorem trapPuts : Statement .trapPuts := by
  simp [Statement, encodeWith, Instr.opcode, OpcodeMap.bits]

theorem trapIn : Statement .trapIn := by
  simp [Statement, encodeWith, Instr.opcode, OpcodeMap.bits]

theorem trapPutsp : Statement .trapPutsp := by
  simp [Statement, encodeWith, Instr.opcode, OpcodeMap.bits]

theorem trapHalt : Statement .trapHalt := by
  simp [Statement, encodeWith, Instr.opcode, OpcodeMap.bits]

theorem rti : Statement .rti := by
  simp [Statement, encodeWith, Instr.opcode, OpcodeMap.bits]

theorem res : Statement .res := by
  simp [Statement, encodeWith, Instr.opcode, OpcodeMap.bits]

end Sys2Proof.Laws.OpcodeField
end

