-- ==== Sys2Proof/Laws/Trap.lean ====
section
/-!
SUPPORT. What the operations of the service routines can do, said once each.
-/

namespace Sys2Proof.Machine

/-- Everything the reading part of GETC can do (R163): a character, the end of input, or the wait. -/
theorem consumeGetc_cases (s : State) :
    (∃ b rest, s.inq = b :: rest ∧
        s.consumeGetc = { State.setReg { s with inq := rest } 0#3 (zext16 b) with wait := .idle }) ∨
      (s.inq = [] ∧ s.closed = true ∧
        s.consumeGetc = { s.setReg 0#3 s.par.eofWord with wait := .idle }) ∨
      (s.inq = [] ∧ s.closed = false ∧ s.consumeGetc = { s with wait := .getc }) := by
  unfold State.consumeGetc
  rcases consume_cases s with ⟨b, rest, hq, e⟩ | ⟨hq, hc, e⟩ | ⟨hq, hc, e⟩
  · exact .inl ⟨b, rest, hq, by rw [e]⟩
  · exact .inr (.inl ⟨hq, hc, by rw [e]⟩)
  · exact .inr (.inr ⟨hq, hc, by rw [e]⟩)

/-- Everything the part of IN after its prompt can do where no stop falls before the echo (R167): a character
with its echo, the end of input with its echo, or the wait. -/
theorem consumeIn_cases (s : State) (h : s.stopsBeforeEcho = false) :
    (∃ b rest, s.inq = b :: rest ∧ s.consumeIn =
        { (State.put { s with inq := rest } [lowByte (zext16 b)]).setReg 0#3 (zext16 b) with wait := .idle }) ∨
      (s.inq = [] ∧ s.closed = true ∧
        s.consumeIn = { (s.put [lowByte s.par.eofWord]).setReg 0#3 s.par.eofWord with wait := .idle }) ∨
      (s.inq = [] ∧ s.closed = false ∧ s.consumeIn = { s with wait := .input }) := by
  unfold State.consumeIn
  rcases consume_cases s with ⟨b, rest, hq, e⟩ | ⟨hq, hc, e⟩ | ⟨hq, hc, e⟩
  · exact .inl ⟨b, rest, hq, by simp [e, h]⟩
  · exact .inr (.inl ⟨hq, hc, by simp [e, h]⟩)
  · exact .inr (.inr ⟨hq, hc, by rw [e]⟩)

/-- Everything that part can do where a stop falls before the echo (R198): the run ends with the character
taken, or at the end of input with nothing taken; or the wait, in which no echo has come near. -/
theorem consumeIn_stopped (s : State) (h : s.stopsBeforeEcho = true) :
    (∃ b rest, s.inq = b :: rest ∧ s.consumeIn = State.interrupt { s with inq := rest }) ∨
      (s.inq = [] ∧ s.closed = true ∧ s.consumeIn = s.interrupt) ∨
      (s.inq = [] ∧ s.closed = false ∧ s.consumeIn = { s with wait := .input }) := by
  unfold State.consumeIn
  rcases consume_cases s with ⟨b, rest, hq, e⟩ | ⟨hq, hc, e⟩ | ⟨hq, hc, e⟩
  · exact .inl ⟨b, rest, hq, by simp [e, h]⟩
  · exact .inr (.inl ⟨hq, hc, by simp [e, h]⟩)
  · exact .inr (.inr ⟨hq, hc, by rw [e]⟩)

/-- The low byte of a zero-extended byte is the byte: the echo of a character is the character. -/
@[simp] theorem lowByte_zext16 (b : Byte) : lowByte (zext16 b) = b := by
  unfold lowByte zext16
  apply BitVec.eq_of_getLsbD_eq
  intro k hk
  simp [hk]
  omega

/-- Everything PUTS and PUTSP can do (R165, R166, R168): the stop falls between two puts; or all bytes are
put and flushed; or one of the two refusals of R165. -/
theorem putString_cases (s : State) (bytes : Word → List Byte) :
    (0 < s.stopPoint ∧ s.stopPoint < (s.stringAt bytes (s.reg 0#3)).1.length ∧ s.putString bytes =
        .next (s.put ((s.stringAt bytes (s.reg 0#3)).1.take s.stopPoint)).interrupt) ∨
      ((s.stringAt bytes (s.reg 0#3)).2 = .terminated ∧
        s.putString bytes = .next (s.put (s.stringAt bytes (s.reg 0#3)).1).flush) ∨
      ((s.stringAt bytes (s.reg 0#3)).2 = .device ∧ s.putString bytes = .refused .trapStringDevice) ∨
      ((s.stringAt bytes (s.reg 0#3)).2 = .wrapped ∧ s.putString bytes = .refused .trapStringWrap) := by
  have h := putThen_cases s (s.stringAt bytes (s.reg 0#3)).1 0
    (fun t => t.finishString (s.stringAt bytes (s.reg 0#3)).2)
  change _ ∨ s.putString bytes = _ at h
  rcases h with ⟨h0, -, h1, e⟩ | e
  · exact .inl ⟨h0, h1, e⟩
  · right
    rw [e]
    rcases (s.stringAt bytes (s.reg 0#3)).2 with _ | _ | _
    · exact .inl ⟨rfl, rfl⟩
    · exact .inr (.inl ⟨rfl, rfl⟩)
    · exact .inr (.inr ⟨rfl, rfl⟩)

/-- Everything TRAP can do (R160): the link of R161 and its service's routine, or, where the vector is
unrecognized, the abort of strict mode or the link alone (R172). -/
theorem execTrap_cases (v : BitVec 8) (s : State) :
    (∃ k, s.par.trapVec.serviceOf v = some k ∧ execTrap v s = s.trapLink.service k) ∨
      (s.par.trapVec.serviceOf v = none ∧ s.par.strictTrap = true ∧
        execTrap v s = .next (s.strictLink.abort .unknownTrapVector)) ∨
      (s.par.trapVec.serviceOf v = none ∧ s.par.strictTrap = false ∧ execTrap v s = .next s.trapLink) := by
  unfold execTrap
  rcases s.par.trapVec.serviceOf v with _ | k
  · cases h : s.par.strictTrap
    · exact .inr (.inr ⟨rfl, rfl, by simp [State.trapUnknown, h]⟩)
    · exact .inr (.inl ⟨rfl, rfl, by simp [State.trapUnknown, h]⟩)
  · exact .inl ⟨k, rfl, rfl⟩

/-- TRAP with a service's vector is that service's instruction (R160, R162). -/
theorem execTrap_vector {s : State} (h : s.par.trapVec.wf = true) (k : Service) :
    execTrap (s.par.trapVec.vector k) s = exec k.instr s := by
  unfold execTrap
  rw [TrapVectors.serviceOf_vector h]
  cases k <;> rfl

/-- Everything HALT can do (R169, R198): the stop falls inside the notice, with the flag as `haltFlagEarly` says;
or the notice is put and the run is HALTED with the flag set. -/
theorem serviceHalt_cases (s : State) :
    (0 < s.stopPoint ∧ s.stopPoint < s.par.haltNotice.length ∧
        s.serviceHalt =
          .next (State.put { s with halted := s.halted || s.par.haltFlagEarly }
            (s.par.haltNotice.take s.stopPoint)).interrupt) ∨
      s.serviceHalt = .next { s.put s.par.haltNotice with halted := true, run := .halted } := by
  rcases putThen_cases { s with halted := s.halted || s.par.haltFlagEarly } s.par.haltNotice 0
    (fun t => .next { t with halted := true, run := .halted }) with ⟨h0, -, h1, e⟩ | e
  · exact .inl ⟨h0, h1, e⟩
  · exact .inr e

end Sys2Proof.Machine
end

