-- ==== Sys2Proof/Laws/Step.lean ====
section
/-!
SUPPORT. What a step can do, said once: an ended run stays, the host moves, or the core takes its turn.
-/

namespace Sys2Proof.Machine

/-- Everything a step that answers a next state can have done. -/
theorem step_next_cases {s t : State} (h : step s = .next t) :
    (s.run ≠ .running ∧ t = s) ∨ (s.run = .running ∧ s.hostMove = some t) ∨
      (s.run = .running ∧ s.hostMove = none ∧ ∃ u, s.coreTurn = .next u ∧ t = u.endTurn) := by
  unfold step at h
  by_cases hr : s.run = .running
  · rw [if_pos hr] at h
    rcases hm : s.hostMove with _ | u
    · rw [hm] at h
      rcases hc : s.coreTurn with u | r | r <;> rw [hc] at h <;> cases h
      exact .inr (.inr ⟨hr, rfl, u, rfl, rfl⟩)
    · rw [hm] at h
      cases h
      exact .inr (.inl ⟨hr, rfl⟩)
  · rw [if_neg hr] at h
    cases h
    exact .inl ⟨hr, rfl⟩

/-- Everything the core's turn can be: an instruction, or another try of the `Consume()` it waits in. -/
theorem coreTurn_cases (s : State) :
    (s.wait = .idle ∧ s.coreTurn = exec (s.decode s.fetch.1) s.fetch.2) ∨
      (s.wait = .getc ∧ s.coreTurn = .next s.consumeGetc) ∨
      (s.wait = .input ∧ s.coreTurn = .next s.consumeIn) := by
  unfold State.coreTurn
  rcases s.wait with _ | _ | _ <;> simp

/-- Everything a host move can do (R37, R198). -/
theorem hostMove_cases {s t : State} (h : s.hostMove = some t) :
    (∃ b rest, s.script = .append b :: rest ∧ t = State.hostAppend { s with script := rest } b) ∨
      (∃ rest, s.script = .close :: rest ∧ t = State.hostClose { s with script := rest }) ∨
      (∃ rest, s.script = .stop :: rest ∧ t = State.interrupt { s with script := rest }) := by
  unfold State.hostMove at h
  split at h <;> cases h
  · exact .inl ⟨_, _, ‹_›, rfl⟩
  · exact .inr (.inl ⟨_, ‹_›, rfl⟩)
  · exact .inr (.inr ⟨_, ‹_›, rfl⟩)

/-- Everything the end of a core step can do: the turn is used up, and at most the run is stopped. -/
theorem endTurn_cases (s : State) :
    s.endTurn = { s with script := s.script.tail } ∨
      (s.run = .running ∧ s.endTurn = State.interrupt { s with script := s.script.tail }) := by
  unfold State.endTurn
  split
  · rename_i h
    split
    · exact .inr ⟨‹_›, by rw [h]; rfl⟩
    · exact .inl (by rw [h]; rfl)
  · rename_i h
    split
    · exact .inr ⟨‹_›, by rw [h]; rfl⟩
    · exact .inl (by rw [h]; rfl)
  · rename_i h
    exact .inl (by rw [h]; rfl)
  · rename_i h
    exact .inl (by rw [h]; simp only [List.tail_nil]; rw [← h])

/-- With no host move to come, the end of a core step changes nothing. -/
theorem endTurn_of_nil {s : State} (h : s.script = []) : s.endTurn = s := by
  unfold State.endTurn; rw [h]

end Sys2Proof.Machine
end

