-- ==== Sys2Proof/Tests/Slice0.lean ====
section
/-!
SUPPORT. The model's own tests. Expected values are the spec's: the examples of the rules and the vectors
of 95_test_vectors.md, named in each comment. The witnesses at the end meet the hypotheses of the
obligations, clause by clause.
-/

namespace Sys2Proof.Tests

open Sys2Proof.Machine

/-! ### Small states -/

/-- The parameters of 95_test_vectors.md, with TRAP not linking and a one-byte notice. -/
def params : Params where
  opcodeMap := OpcodeMap.lc3
  trapVec := TrapVectors.lc3
  kbsrAddr := 0xFE00#16
  kbdrAddr := 0xFE02#16
  eofWord := 0xFFFF#16
  trapLinksR7 := false
  jsrrBaseRead := .afterLink
  strictTrap := false
  inPrompt := []
  haltNotice := [0x2E#8]
  haltFlagEarly := true
  strictTrapLinks := true

/-- A start state at 0x3000 with these parameters. -/
def base : State := State.start params InitValues.default

/-- The word stands in the cell fetched next. -/
def code (w : Word) (s : State) : State := s.memWrite s.pc w

/-- The cells hold the words. -/
def cells (cs : List (Word × Word)) (s : State) : State := cs.foldl (fun t c => t.memWrite c.1 c.2) s

/-- The state after one step, if there is one. -/
def after (s : State) : Option State :=
  match step s with
  | .next t => some t
  | .fault _ => none
  | .refused _ => none

/-- The refusal of one step, if there is one. -/
def refusal (s : State) : Option Refusal :=
  match step s with
  | .next _ => none
  | .fault _ => none
  | .refused r => some r

/-! ### Well-formedness: the one check refuses -/

/-- R92: the generic TRAP row does not carry a service vector. -/
theorem test_wf_refuses_service_vectors :
    (Instr.trap 0x20#8).wf TrapVectors.lc3 = false ∧ (Instr.trap 0x25#8).wf TrapVectors.lc3 = false := by decide

/-- R81, R162: the tables must hold distinct values. -/
theorem test_wf_refuses_equal_values : OpcodeMap.wf { OpcodeMap.lc3 with res := 0x0#4 } = false ∧
    TrapVectors.wf { TrapVectors.lc3 with halt := 0x20#8 } = false := by decide

/-- R92: every other vector is the generic row's. -/
theorem test_wf_takes_other_vectors :
    (Instr.trap 0x1F#8).wf TrapVectors.lc3 = true ∧ (Instr.trap 0x26#8).wf TrapVectors.lc3 = true := by decide

/-! ### Decoding: words written out bit by bit from the formats of R86 -/

/-- 41_operate.md R120, R121: ADD R0, R1, R2; ADD R2, R1, #-1; and O8, bits 4-3 not read. -/
theorem test_decode_add : decode 0b0001_000_001_0_00_010#16 = .addReg 0#3 1#3 2#3 ∧
    decode 0b0001_010_001_1_11111#16 = .addImm 2#3 1#3 0b11111#5 ∧
    decode 0b0001_000_001_0_11_000#16 = .addReg 0#3 1#3 0#3 := by decide

/-- 41_operate.md R122, R123: AND R0, R1, R2; AND R0, R0, #0. -/
theorem test_decode_and : decode 0b0101_000_001_0_00_010#16 = .andReg 0#3 1#3 2#3 ∧
    decode 0b0101_000_000_1_00000#16 = .andImm 0#3 0#3 0#5 := by decide

/-- R124 and O16: NOT R0, R1 with bits 5-0 of either form. -/
theorem test_decode_not : decode 0b1001_000_001_111111#16 = .not 0#3 1#3 ∧
    decode 0b1001_000_001_000000#16 = .not 0#3 1#3 := by decide

/-- R130: BRp #5; C3: BRnzp #-1. -/
theorem test_decode_br : decode 0b0000_001_000000101#16 = .br 0b001#3 5#9 ∧
    decode 0b0000_111_111111111#16 = .br 0b111#3 0x1FF#9 := by decide

/-- R132: RET. -/
theorem test_decode_jmp : decode 0b1100_000_111_000000#16 = .jmp 7#3 := by decide

/-- R133, R134: JSR #2; JSRR R3; and C10, JSR #-1024. -/
theorem test_decode_jsr : decode 0b0100_1_00000000010#16 = .jsr 2#11 ∧
    decode 0b0100_0_00_011_000000#16 = .jsrr 3#3 ∧ decode 0b0100_1_10000000000#16 = .jsr 0x400#11 := by decide

/-- R140 to R143: LD R1, #2; LDI R1, #2; LDR R1, R2, #-1; LEA R0, #5. -/
theorem test_decode_loads : decode 0b0010_001_000000010#16 = .ld 1#3 2#9 ∧
    decode 0b1010_001_000000010#16 = .ldi 1#3 2#9 ∧ decode 0b0110_001_010_111111#16 = .ldr 1#3 2#3 0x3F#6 ∧
    decode 0b1110_000_000000101#16 = .lea 0#3 5#9 := by decide

/-- R150 to R152: ST R3, #2; STI R2, #2; STR R4, R1, #3. -/
theorem test_decode_stores : decode 0b0011_011_000000010#16 = .st 3#3 2#9 ∧
    decode 0b1011_010_000000010#16 = .sti 2#3 2#9 ∧ decode 0b0111_100_001_000011#16 = .str 4#3 1#3 3#6 := by decide

/-- R162: the six vectors; T13: bits 11-8 not read; R172: TRAP x00. -/
theorem test_decode_traps : decode 0b1111_0000_00100000#16 = .trapGetc ∧
    decode 0b1111_0000_00100001#16 = .trapOut ∧ decode 0b1111_0000_00100010#16 = .trapPuts ∧
    decode 0b1111_0000_00100011#16 = .trapIn ∧ decode 0b1111_0000_00100100#16 = .trapPutsp ∧
    decode 0b1111_1111_00100101#16 = .trapHalt ∧ decode 0b1111_0000_00000000#16 = .trap 0#8 := by decide

/-- R180, R181, U2, U4: RES and RTI whatever bits 11-0 hold. -/
theorem test_decode_undefined : decode 0b1101_111111111111#16 = .res ∧ decode 0b1000_000000000000#16 = .rti := by
  decide

/-- R86: the conventional words. -/
theorem test_encode_conventional : encode (.not 0#3 1#3) = 0x907F#16 ∧ encode (.jmp 7#3) = 0xC1C0#16 ∧
    encode (.jsrr 3#3) = 0x40C0#16 ∧ encode .trapHalt = 0xF025#16 := by decide

/-- R80: an instruction is one 16-bit word. -/
theorem test_table_word : decodeTableWord 16 0x1042 = some (.addReg 0#3 1#3 2#3) ∧ decodeTableWord 32 0x1042 = none := by
  decide

/-! ### Operands, flags, the engine and memory -/

/-- W1, W2: the worked sign extensions. -/
theorem test_sext5 : sext5 0b11111#5 = 0xFFFF#16 ∧ sext5 0b00001#5 = 0x0001#16 := by decide

/-- W3: the representative values. -/
theorem test_condition_codes : condOf 0x0000#16 = .z ∧ condOf 0x8000#16 = .n ∧ condOf 0x0001#16 = .p := by decide

/-- E2: the fetch wraps. -/
theorem test_fetch_wraps : (after (code 0x0000#16 (base.setPc 0xFFFF#16))).map (·.pc) = some 0x0000#16 := by decide

/-- E4: a fetch from the keyboard-status cell polls, and the status word 0x8000 aborts. -/
theorem test_fetch_polls :
    (after { base.setPc 0xFE00#16 with inq := [0x41#8] }).map (fun t => (t.run, t.pc, t.inq)) =
      some (.aborted, 0xFE01#16, []) := by decide

/-- W8: two status reads with nothing pending. -/
theorem test_status_read_empty :
    ((base.memRead 0xFE00#16).1, ((base.memRead 0xFE00#16).2.memRead 0xFE00#16).1) = (0x0000#16, 0x0000#16) := by decide

/-- E6: two pending characters. -/
theorem test_status_read_two :
    let r := State.memRead { base with inq := [0x41#8, 0x42#8] } 0xFE00#16
    (r.1, r.2.mem.read 0xFE02#16, (r.2.memRead 0xFE00#16).1, (r.2.memRead 0xFE00#16).2.mem.read 0xFE02#16) =
      (0x8000#16, 0x0041#16, 0x8000#16, 0x0042#16) := by decide

/-- S6: self-modifying code is seen at once. -/
theorem test_self_modifying :
    ((after (code 0x3000#16 (base.setReg 0#3 0xF025#16))).bind after).map (fun t => (t.run, t.pc)) =
      some (.halted, 0x3002#16) := by decide

/-! ### Operate -/

/-- O2: overflow wraps. -/
theorem test_add_reg_wraps :
    (after (code 0x1042#16 ((base.setReg 1#3 0x7FFF#16).setReg 2#3 0x0001#16))).map (fun t => (t.reg 0#3, t.cond)) =
      some (0x8000#16, .n) := by decide

/-- O4: a source is the destination. -/
theorem test_add_reg_doubles : (after (code 0x1241#16 (base.setReg 1#3 0x4000#16))).map (fun t => (t.reg 1#3, t.cond)) =
    some (0x8000#16, .n) := by decide

/-- W6: 5 + (-1). -/
theorem test_add_imm : (after (code 0x147F#16 (base.setReg 1#3 0x0005#16))).map (fun t => (t.reg 2#3, t.cond)) =
    some (0x0004#16, .p) := by decide

/-- O5: the most negative immediate. -/
theorem test_add_imm_min : (after (code 0x1070#16 (base.setReg 1#3 0x0010#16))).map (fun t => (t.reg 0#3, t.cond)) =
    some (0x0000#16, .z) := by decide

/-- R122: 0x0F0F and 0x00FF. -/
theorem test_and_reg :
    (after (code 0x5042#16 ((base.setReg 1#3 0x0F0F#16).setReg 2#3 0x00FF#16))).map (fun t => (t.reg 0#3, t.cond)) =
      some (0x000F#16, .p) := by decide

/-- O10: the identity immediate keeps bit 15. -/
theorem test_and_imm : (after (code 0x507F#16 (base.setReg 1#3 0x8001#16))).map (fun t => (t.reg 0#3, t.cond)) =
    some (0x8001#16, .n) := by decide

/-- O15: the complement of 0x8000. -/
theorem test_not : (after (code 0x907F#16 (base.setReg 1#3 0x8000#16))).map (fun t => (t.reg 0#3, t.cond)) =
    some (0x7FFF#16, .p) := by decide

/-! ### Control transfer -/

/-- W4. -/
theorem test_br_taken : (after (code 0x0205#16 { base with cond := .p })).map (·.pc) = some 0x3006#16 := by decide

/-- W5. -/
theorem test_br_not_taken : (after (code 0x0405#16 { base with cond := .p })).map (·.pc) = some 0x3001#16 := by decide

/-- C8. -/
theorem test_jmp : (after (code 0xC080#16 (base.setReg 2#3 0x1234#16))).map (·.pc) = some 0x1234#16 := by decide

/-- W11. -/
theorem test_jsr : (after (code 0x4802#16 base)).map (fun t => (t.reg 7#3, t.pc)) = some (0x3001#16, 0x3003#16) := by
  decide

/-- C13: with the default order `JSRR R7` goes on at the next instruction. -/
theorem test_jsrr_after_link : (after (code 0x41C0#16 (base.setReg 7#3 0x5000#16))).map (fun t => (t.reg 7#3, t.pc)) =
    some (0x3001#16, 0x3001#16) := by decide

/-- C14: with the other order it jumps to the old R7. -/
theorem test_jsrr_before_link :
    (after (code 0x41C0#16 { base.setReg 7#3 0x5000#16 with par := { params with jsrrBaseRead := .beforeLink } })).map
      (fun t => (t.reg 7#3, t.pc)) = some (0x3001#16, 0x5000#16) := by decide

/-! ### Loads -/

/-- L1. -/
theorem test_ld : (after (code 0x2202#16 (cells [(0x3003#16, 0x8001#16)] base))).map (fun t => (t.reg 1#3, t.cond)) =
    some (0x8001#16, .n) := by decide

/-- L3: LD from the keyboard-status cell. -/
theorem test_ld_polls :
    (after (code 0x2000#16 { base.setPc 0xFDFF#16 with inq := [0x41#8] })).map
      (fun t => (t.reg 0#3, t.cond, t.mem.read 0xFE02#16, t.inq)) = some (0x8000#16, .n, 0x0041#16, []) := by decide

/-- L5. -/
theorem test_ldi :
    (after (code 0xA202#16 (cells [(0x3003#16, 0x4000#16), (0x4000#16, 0x0007#16)] base))).map
      (fun t => (t.reg 1#3, t.cond)) = some (0x0007#16, .p) := by decide

/-- L6: a pointer to the keyboard-status cell. -/
theorem test_ldi_polls :
    (after (code 0xA202#16 (cells [(0x3003#16, 0xFE00#16)] { base with inq := [0x41#8] }))).map
      (fun t => (t.reg 1#3, t.cond, t.mem.read 0xFE02#16)) = some (0x8000#16, .n, 0x0041#16) := by decide

/-- L8: the address uses the base's old value. -/
theorem test_ldr : (after (code 0x6481#16 (cells [(0x4001#16, 0xFFFF#16)] (base.setReg 2#3 0x4000#16)))).map
    (fun t => (t.reg 2#3, t.cond)) = some (0xFFFF#16, .n) := by decide

/-- L9: the address wraps. -/
theorem test_ldr_wraps : (after (code 0x6041#16 (cells [(0x0000#16, 0x0007#16)] (base.setReg 1#3 0xFFFF#16)))).map
    (fun t => (t.reg 0#3, t.cond)) = some (0x0007#16, .p) := by decide

/-- L12. -/
theorem test_lea : (after (code 0xE100#16 (base.setPc 0x0000#16))).map (fun t => (t.reg 0#3, t.cond)) =
    some (0xFF01#16, .n) := by decide

/-- L14: LEA does not poll. -/
theorem test_lea_does_not_poll :
    (after (code 0xE000#16 { base.setPc 0xFDFF#16 with inq := [0x41#8] })).map (fun t => (t.reg 0#3, t.inq)) =
      some (0xFE00#16, [0x41#8]) := by decide

/-! ### Stores -/

/-- S1. -/
theorem test_st : (after (code 0x3602#16 (base.setReg 3#3 0xBEEF#16))).map (fun t => (t.mem.read 0x3003#16, t.cond)) =
    some (0xBEEF#16, base.cond) := by decide

/-- S5: a store to the keyboard-status cell has no device effect. -/
theorem test_st_status :
    (after (code 0x3200#16 { (base.setPc 0xFDFF#16).setReg 1#3 0x1234#16 with inq := [0x41#8] })).map
      (fun t => (t.mem.read 0xFE00#16, t.inq)) = some (0x1234#16, [0x41#8]) := by decide

/-- S2. -/
theorem test_sti : (after (code 0xB402#16 (cells [(0x3003#16, 0x4000#16)] (base.setReg 2#3 0x1234#16)))).map
    (fun t => t.mem.read 0x4000#16) = some 0x1234#16 := by decide

/-- R151: a pointer cell at the keyboard-status address polls, and the store goes to the status value. -/
theorem test_sti_polls : (after (code 0xB402#16 ((base.setPc 0xFDFD#16).setReg 2#3 0x5555#16))).map
    (fun t => (t.mem.read 0xFE00#16, t.mem.read 0x0000#16)) = some (0x0000#16, 0x5555#16) := by decide

/-- S3. -/
theorem test_str : (after (code 0x7843#16 ((base.setReg 1#3 0x3008#16).setReg 4#3 0x1232#16))).map
    (fun t => t.mem.read 0x300B#16) = some 0x1232#16 := by decide

/-- S4: the stored register is the base. -/
theorem test_str_base : (after (code 0x7240#16 (base.setReg 1#3 0x4000#16))).map (fun t => t.mem.read 0x4000#16) =
    some 0x4000#16 := by decide

/-! ### TRAP and the service routines -/

/-- T6. -/
theorem test_getc : (after (code 0xF020#16 { base with inq := [0x41#8] })).map (fun t => (t.reg 0#3, t.inq, t.out)) =
    some (0x0041#16, [], []) := by decide

/-- T8: GETC with no input waits; R202: an appended byte ends the wait. -/
theorem test_getc_waits :
    ((after { code 0xF020#16 base with script := [.coreTurn, .append 0x41#8] }).bind fun t =>
      (after t).bind fun u => (after u).map fun v => (t.wait, v.wait, v.reg 0#3)) =
      some (.getc, .idle, 0x0041#16) := by decide

/-- T1: OUT ignores bits 15-8. -/
theorem test_out : (after (code 0xF021#16 (base.setReg 0#3 0x1241#16))).map (fun t => (t.out, t.delivered)) =
    some ([0x41#8], 1) := by decide

/-- W9. -/
theorem test_puts :
    (after (code 0xF022#16 (cells [(0x4000#16, 0x0048#16), (0x4001#16, 0x0069#16)] (base.setReg 0#3 0x4000#16)))).map
      (fun t => (t.out, t.delivered)) = some ([0x48#8, 0x69#8], 2) := by decide

/-- T15 and T16: the two refusals. -/
theorem test_puts_refused :
    refusal (code 0xF022#16 (cells [(0xFFFF#16, 0x0041#16)] (base.setReg 0#3 0xFFFF#16))) = some .trapStringWrap ∧
    refusal (code 0xF022#16 (base.setReg 0#3 0xFE00#16)) = some .trapStringDevice := by decide

/-- T9: the echo is not flushed. -/
theorem test_in : (after (code 0xF023#16 { base with inq := [0x79#8] })).map
    (fun t => (t.reg 0#3, t.out, t.delivered)) = some (0x0079#16, [0x79#8], 0) := by decide

/-- R167: at end of input R0 is EOF_WORD and the echo its low byte. -/
theorem test_in_eof : (after (code 0xF023#16 { base with closed := true })).map (fun t => (t.reg 0#3, t.out)) =
    some (0xFFFF#16, [0xFF#8]) := by decide

/-- T4. -/
theorem test_putsp :
    (after (code 0xF024#16 (cells [(0x4000#16, 0x6948#16), (0x4001#16, 0x0021#16)] (base.setReg 0#3 0x4000#16)))).map
      (fun t => t.out) = some [0x48#8, 0x69#8, 0x21#8] := by decide

/-- T5: a zero low byte is put. -/
theorem test_putsp_zero_low :
    (after (code 0xF024#16 (cells [(0x4000#16, 0x4100#16)] (base.setReg 0#3 0x4000#16)))).map (fun t => t.out) =
      some [0x00#8, 0x41#8] := by decide

/-- W10, T10: HALT; and no further instruction executes. -/
theorem test_halt : ((after (code 0xF025#16 base)).bind after).map (fun t => (t.halted, t.run, t.pc, t.out)) =
    some (true, .halted, 0x3001#16, [0x2E#8]) := by decide

/-- T11: TRAP x00 changes only `pc`. -/
theorem test_trap_unknown : after (code 0xF000#16 base) = some ((code 0xF000#16 base).setPc 0x3001#16) := by decide

/-- T12: strict mode aborts; with R161 R7 is linked first, with R194 nothing is written. -/
theorem test_trap_strict :
    (after (code 0xF026#16 { base with par := { params with strictTrap := true, trapLinksR7 := true } })).map
      (fun t => (t.run, t.pc, t.reg 7#3)) = some (.aborted, 0x3001#16, 0x3001#16) ∧
    (after (code 0xF026#16 { base with
        par := { params with strictTrap := true, trapLinksR7 := true, strictTrapLinks := false } })).map
      (fun t => (t.run, t.pc, t.reg 7#3)) = some (.aborted, 0x3001#16, 0x0000#16) := by decide

/-- T14: TRAP links R7 where the parameter says so. -/
theorem test_trap_links :
    (after (code 0xF021#16 { base.setReg 7#3 0x1111#16 with par := { params with trapLinksR7 := true } })).map
      (fun t => t.reg 7#3) = some 0x3001#16 ∧
    (after (code 0xF021#16 (base.setReg 7#3 0x1111#16))).map (fun t => t.reg 7#3) = some 0x1111#16 := by decide

/-! ### Undefined opcodes, the host, the loader -/

/-- U1. -/
theorem test_res : (after (code 0xD000#16 base)).map (fun t => (t.run, t.pc, t.halted)) =
    some (.aborted, 0x3001#16, false) := by decide

/-- U4. -/
theorem test_rti : (after (code 0x8FFF#16 base)).map (fun t => (t.run, t.pc)) = some (.aborted, 0x3001#16) := by decide

/-- R171, R198: a stop signal after the first of PUTS's two puts. -/
theorem test_stop_between_puts :
    (after (code 0xF022#16 { cells [(0x4000#16, 0x0048#16), (0x4001#16, 0x0069#16)] (base.setReg 0#3 0x4000#16) with
      script := [.stopAfter 1] })).map (fun t => (t.run, t.out, t.delivered)) = some (.interrupted, [0x48#8], 0) := by decide

/-- 95_test_vectors.md P1: the first words of its image file. -/
theorem test_load_image :
    (match base.loadImage [0x30#8, 0x00#8, 0x50#8, 0x20#8, 0x52#8, 0x60#8] with
      | .next t => some (t.mem.read 0x3000#16, t.mem.read 0x3001#16)
      | .fault _ => none
      | .refused _ => none) = some (0x5020#16, 0x5260#16) := by decide

/-- The host's entry: the word placed is the instruction the next step runs. -/
theorem test_with_fetch_word : (after (State.reset.withFetchWord 16 0x1021)).map (fun t => (t.reg 0#3, t.cond, t.pc)) =
    some (0x0001#16, .p, 0x3001#16) := by decide

/-! ### Witnesses: the hypotheses of the obligations can be met, clause by clause -/

/-- A string of one cell before the keyboard-status cell, of one cell before a zero at 0xFFFF, and of one
cell at 0xFFFF. -/
def stringBase (a : Word) : State := cells [(a, 0x0041#16)] (base.setReg 0#3 a)

theorem witness_DecodeOfEncodeIsIdentity : OpcodeMap.lc3.wf = true ∧ TrapVectors.lc3.wf = true ∧
    (Instr.trap 0x26#8).wf TrapVectors.lc3 = true ∧ (Instr.trap 0xFF#8).wf TrapVectors.lc3 = true := by decide

theorem witness_EveryWordSelectsOneRow : ∃ row ∈ Claims.specificRows, 0xFF25#16 &&& row.1 = row.2 := by decide

theorem witness_UnreadBitsDoNotMatter : 0x0018#16 &&& Claims.readBits (decode 0x1042#16) = 0x0000#16 ∧
    0x0600#16 &&& Claims.readBits (decode 0x40C0#16) = 0x0000#16 ∧
    0x0F00#16 &&& Claims.readBits (decode 0xF025#16) = 0x0000#16 := by decide

theorem witness_WordsOfTheSpecDecode : (0x1042#16, Instr.addReg 0#3 1#3 2#3) ∈ Claims.specWords := by decide

theorem witness_StepRunsTheDecodedInstruction :
    (State.run { base with script := [.coreTurn] } = .running ∧ State.wait { base with script := [.coreTurn] } = .idle ∧
      State.hostMove { base with script := [.coreTurn] } = none) ∧
    base.run = .running ∧ base.wait = .idle ∧ base.script = [] ∧ Claims.UsesLc3Tables base :=
  ⟨by decide, rfl, rfl, rfl, rfl, rfl⟩

theorem witness_EndedRunsNeverMove : State.run { base with run := .halted } ≠ .running ∧
    State.run { base with run := .aborted } ≠ .running ∧ State.run { base with run := .interrupted } ≠ .running := by decide

theorem witness_StoredWordIsFetchedNext :
    (base.pcRel9 0#9 ≠ base.par.kbsrAddr ∧ ∃ t, exec (.st 0#3 0#9) base = .next t) ∧
    base.baseOffset 0#3 0#6 ≠ base.par.kbsrAddr ∧ ∃ t, exec (.str 0#3 0#3 0#6) base = .next t :=
  ⟨⟨by decide, _, rfl⟩, by decide, _, rfl⟩

theorem witness_FetchOfTheStatusCellPolls :
    (base.setPc 0xFE00#16).par.wf ∧ (base.setPc 0xFE00#16).pc = (base.setPc 0xFE00#16).par.kbsrAddr ∧
    Claims.UsesLc3Tables (base.setPc 0xFE00#16) ∧ (base.setPc 0xFE00#16).fetch.1 = 0x0000#16 ∧
    (State.fetch { base.setPc 0xFE00#16 with inq := [0x41#8] }).1 = 0x8000#16 :=
  ⟨by decide, rfl, ⟨rfl, rfl⟩, by decide, by decide⟩

theorem witness_NoOpEncodingsDoNothing : (0x01FF#16 : Word).toNat < 0x0200 ∧ Claims.Unrecognized base 0x1F#8 ∧
    Claims.Unrecognized base 0x26#8 ∧ base.par.strictTrap = false ∧ base.par.trapLinksR7 = false := by
  unfold Claims.Unrecognized
  decide

theorem witness_MemWriteSetsOneCell : (0xFE02#16 : Word) ≠ base.par.kbsrAddr ∧ (0xFFFF#16 : Word) ≠ 0x0000#16 := by decide

theorem witness_PlainReadChangesNothing : (0xFE02#16 : Word) ≠ base.par.kbsrAddr := by decide

theorem witness_StatusReadPollsTheKeyboard : base.par.wf ∧ State.inq { base with inq := [0x41#8] } = 0x41#8 :: [] ∧
    (base.inq = [] ∧ base.closed = false) ∧
    (State.inq { base with closed := true } = [] ∧ State.closed { base with closed := true } = true) := by decide

theorem witness_EachStatusReadTakesOneCharacter : base.par.wf ∧ base.closed = false ∧ base.inq = [] ∧
    State.inq { base with inq := [0x41#8] } = [0x41#8] ∧
    State.inq { base with inq := [0x41#8, 0x42#8] } = 0x41#8 :: 0x42#8 :: [] := by decide

theorem witness_CanonicalMemoriesThatReadAlikeAreEqual :
    Memory.wf ⟨[(0, 0x0001#16), (65535, 0x0001#16)]⟩ = true ∧
    ∀ a, Memory.read ⟨[(0, 0x0001#16), (65535, 0x0001#16)]⟩ a = Memory.read ⟨[(0, 0x0001#16), (65535, 0x0001#16)]⟩ a :=
  ⟨by decide, fun _ => rfl⟩

/-- The words that the decoding clauses of the instructions' results speak of. -/
theorem witness_AddResult : (0x1042#16).extractLsb' 12 4 = 0x1#4 ∧ (0x1042#16).getLsbD 5 = false ∧
    (0x147F#16).extractLsb' 12 4 = 0x1#4 ∧ (0x147F#16).getLsbD 5 = true := by decide

theorem witness_AndResult : (0x5042#16).extractLsb' 12 4 = 0x5#4 ∧ (0x5042#16).getLsbD 5 = false ∧
    (0x5020#16).extractLsb' 12 4 = 0x5#4 ∧ (0x5020#16).getLsbD 5 = true := by decide

theorem witness_NotResult : (0x907F#16).extractLsb' 12 4 = 0x9#4 := by decide

theorem witness_BranchResult : (0x0205#16).extractLsb' 12 4 = 0x0#4 := by decide

theorem witness_JumpResult : (0xC1C0#16).extractLsb' 12 4 = 0xC#4 := by decide

theorem witness_JsrResult : (0x4802#16).extractLsb' 12 4 = 0x4#4 ∧ (0x4802#16).getLsbD 11 = true := by decide

theorem witness_JsrrResult : (0x40C0#16).extractLsb' 12 4 = 0x4#4 ∧ (0x40C0#16).getLsbD 11 = false := by decide

theorem witness_DirectLoadResult : (0x2202#16).extractLsb' 12 4 = 0x2#4 ∧ (0x62BF#16).extractLsb' 12 4 = 0x6#4 := by decide

theorem witness_IndirectLoadResult : (0xA202#16).extractLsb' 12 4 = 0xA#4 ∧
    ∃ p u, base.memRead (base.pc + (2#9).signExtend 16) = (p, u) := ⟨by decide, _, _, rfl⟩

theorem witness_LeaResult : (0xE005#16).extractLsb' 12 4 = 0xE#4 := by decide

theorem witness_LoadOfTheStatusCellPolls : base.par.wf ∧
    (base.setPc 0xFDFF#16).pcRel9 1#9 = base.par.kbsrAddr ∧
    (base.pcRel9 2#9 ≠ base.par.kbsrAddr ∧
      (cells [(0x3002#16, 0xFE00#16)] base).mem.read (base.pcRel9 2#9) = base.par.kbsrAddr) ∧
    State.inq { base with inq := [0x41#8] } = 0x41#8 :: [] ∧ base.inq = [] ∧ base.closed = false := by decide

theorem witness_DirectStoreResult : (0x3602#16).extractLsb' 12 4 = 0x3#4 ∧ (0x7843#16).extractLsb' 12 4 = 0x7#4 := by decide

theorem witness_IndirectStoreResult : (0xB402#16).extractLsb' 12 4 = 0xB#4 ∧
    ∃ p u, base.memRead (base.pc + (2#9).signExtend 16) = (p, u) := ⟨by decide, _, _, rfl⟩

theorem witness_TrapVectorSelectsTheRoutine : (0xF020#16).extractLsb' 12 4 = 0xF#4 ∧
    (0xF020#16).extractLsb' 0 8 = 0x20#8 ∧ (0xFF25#16).extractLsb' 12 4 = 0xF#4 ∧
    (0xFF25#16).extractLsb' 0 8 = 0x25#8 ∧ Claims.UsesLc3Tables base :=
  ⟨by decide, by decide, by decide, by decide, rfl, rfl⟩

theorem witness_GetcResult : State.inq { base with inq := [0x41#8] } = 0x41#8 :: [] ∧
    (State.inq { base with closed := true } = [] ∧ State.closed { base with closed := true } = true) ∧
    (base.inq = [] ∧ base.closed = false) := by decide

/-- R166's three ends: a zero cell at 0xFFFF, the keyboard-status cell, and 0xFFFF passed. -/
theorem witness_PutsResult :
    (Claims.CellsAt (stringBase 0xFFFE#16).mem 0xFE00#16 0xFFFE#16 [0x0041#16] ∧
      (stringBase 0xFFFE#16).mem.read 0xFFFF#16 = 0x0000#16 ∧ (0xFFFE#16 : Word).toNat + 1 < 65536) ∧
    (Claims.CellsAt (stringBase 0xFDFF#16).mem 0xFE00#16 0xFDFF#16 [0x0041#16] ∧
      (0xFDFF#16 : Word) + BitVec.ofNat 16 1 = 0xFE00#16) ∧
    (Claims.CellsAt (stringBase 0xFFFF#16).mem 0xFE00#16 0xFFFF#16 [0x0041#16] ∧ (0xFFFF#16 : Word).toNat + 1 = 65536) ∧
    Claims.NoStopWithin base 1 := by
  refine ⟨⟨⟨by decide, by decide, by decide, trivial⟩, by decide, by decide⟩,
    ⟨⟨by decide, by decide, by decide, trivial⟩, by decide⟩,
    ⟨⟨by decide, by decide, by decide, trivial⟩, by decide⟩, ?_⟩
  unfold Claims.NoStopWithin
  decide

/-- R168: the same three strings, each of one byte. -/
theorem witness_PutspResult :
    Claims.CellsAt (stringBase 0xFFFE#16).mem 0xFE00#16 0xFFFE#16 [0x0041#16] ∧
    Claims.CellsAt (stringBase 0xFDFF#16).mem 0xFE00#16 0xFDFF#16 [0x0041#16] ∧
    Claims.CellsAt (stringBase 0xFFFF#16).mem 0xFE00#16 0xFFFF#16 [0x0041#16] ∧
    ([0x0041#16].flatMap Claims.packedBytes).length = 1 :=
  ⟨⟨by decide, by decide, by decide, trivial⟩, ⟨by decide, by decide, by decide, trivial⟩,
    ⟨by decide, by decide, by decide, trivial⟩, by decide⟩

theorem witness_InResult : Claims.NoStopWithin base (base.par.inPrompt.length + 1) ∧ base.stopsBeforeEcho = false ∧
    State.inq { base with inq := [0x79#8] } = 0x79#8 :: [] ∧ State.closed { base with closed := true } = true ∧
    base.inq = [] ∧ base.closed = false := by
  unfold Claims.NoStopWithin
  decide

theorem witness_HaltResult : Claims.NoStopWithin base base.par.haltNotice.length := by
  unfold Claims.NoStopWithin
  decide

theorem witness_UnknownTrapResult : (0xF026#16).extractLsb' 12 4 = 0xF#4 ∧
    ¬ (0x20#8 ≤ (0xF026#16).extractLsb' 0 8 ∧ (0xF026#16).extractLsb' 0 8 ≤ 0x25#8) ∧
    Claims.UsesLc3Tables base ∧ Claims.Unrecognized base 0x26#8 ∧ base.par.strictTrap = false ∧
    State.par { base with par := { params with strictTrap := true } } = { params with strictTrap := true } := by
  unfold Claims.UsesLc3Tables Claims.Unrecognized
  decide

theorem witness_RoutinesLeaveTheRestAlone : Instr.trapOut.opcode = .trap ∧ Instr.trapOut.wf TrapVectors.lc3 = true ∧
    ∃ t, exec .trapOut base = .next t := ⟨rfl, rfl, _, rfl⟩

theorem witness_WaitingCoreGoesOnWithInput :
    (State.blocked { base with wait := .getc } ∧ State.script { base with wait := .getc } = []) ∧
    (State.blocked { base with wait := .input, script := [.append 0x41#8] }) ∧
    (State.blocked { base with wait := .getc, script := [.close] }) := by decide

theorem witness_UndefinedOpcodesAbort : (0xD000#16).extractLsb' 12 4 = 0xD#4 ∧ (0x8FFF#16).extractLsb' 12 4 = 0x8#4 := by
  decide

theorem witness_HostMovesChangeOnlyTheirPart : base.run = .running ∧
    State.script { base with script := [.append 0x41#8] } = .append 0x41#8 :: [] ∧ base.closed = false ∧
    State.closed { base with closed := true, script := [.append 0x41#8] } = true ∧
    State.script { base with script := [.close] } = .close :: [] ∧
    State.script { base with script := [.stop] } = .stop :: [] := by decide

/-- A stop after the first of two puts: of a PUTS string, a PUTSP cell, a prompt and a notice. -/
theorem witness_StopBetweenTwoPuts :
    State.stopPoint { base with script := [.stopAfter 1] } = 1 ∧
    1 < ([0x0041#16, 0x0042#16].flatMap fun c => [c.extractLsb' 0 8]).length ∧
    1 < ([0x4241#16].flatMap Claims.packedBytes).length ∧
    Claims.CellsAt (cells [(0x4000#16, 0x0041#16), (0x4001#16, 0x0042#16)] base).mem 0xFE00#16 0x4000#16
      [0x0041#16, 0x0042#16] ∧
    1 ≤ (Params.inPrompt { params with inPrompt := [0x3E#8] }).length ∧
    1 < (Params.haltNotice { params with haltNotice := [0x2E#8, 0x0A#8] }).length ∧
    State.stopsBeforeEcho { base with
      script := [.stopBeforeEcho]
      closed := true
      par := { params with inPrompt := [0x3E#8] } } = true :=
  ⟨rfl, by decide, by decide, ⟨by decide, by decide, by decide, by decide, by decide, by decide, trivial⟩,
    by decide, by decide, by decide⟩

/-- The step may leave the run under way (BR never) or end it (HALT). -/
theorem witness_StopTakesEffectAfterTheStep :
    State.script { base with script := [.stopAfter 1] } = .stopAfter 1 :: [] ∧
    (∃ t, exec (State.decode base (State.fetch { base with script := [.stopAfter 1] }).1)
        (State.fetch { base with script := [.stopAfter 1] }).2 = .next t ∧ t.run = .running) ∧
    ∃ t, exec (State.decode base (State.fetch (code 0xF025#16 { base with script := [.stopAfter 1] })).1)
        (State.fetch (code 0xF025#16 { base with script := [.stopAfter 1] })).2 = .next t ∧ t.run ≠ .running :=
  ⟨rfl, ⟨_, rfl, rfl⟩, ⟨_, rfl, by decide⟩⟩

theorem witness_ObservedOutputAtEachEnd : State.run { base with run := .halted } = .halted ∧
    State.run { base with run := .aborted } = .aborted ∧ State.run { base with run := .interrupted } = .interrupted := by
  decide

/-- The invariant holds at `base`, and `base` takes a step. -/
theorem witness_EveryStepKeepsTheInvariant : base.Inv ∧ ∃ t, step base = .next t :=
  ⟨⟨by decide, by decide, by decide, by decide, by decide, by decide, by decide, by decide⟩, _, rfl⟩

theorem witness_StartMeetsTheInvariant : InitValues.default.mem.wf = true ∧ params.wf ∧ params.tablesWf := by decide

theorem witness_OnlyFlagSettersWriteTheConditionCode :
    (∃ t, exec (.not 0#3 1#3) base = .next t) ∧ Claims.flagDest (.not 0#3 1#3) = some 0#3 ∧
    (∃ t, exec (.jmp 0#3) base = .next t) ∧ Claims.flagDest (.jmp 0#3) = none := ⟨⟨_, rfl⟩, rfl, ⟨_, rfl⟩, rfl⟩

theorem witness_OnlyTransfersWriteThePc :
    Claims.isTransfer (.ld 0#3 0#9) = false ∧ ∃ t, exec (.ld 0#3 0#9) base = .next t := ⟨rfl, _, rfl⟩

theorem witness_OnlyListedRegistersAreWritten : Instr.trapGetc.wf TrapVectors.lc3 = true ∧ ∃ t, exec .trapGetc base = .next t :=
  ⟨rfl, _, rfl⟩

theorem witness_UnlistedRegistersAreNotRead : Instr.trapOut.wf TrapVectors.lc3 = true ∧ 7#3 ∉ Claims.regReads .trapOut ∧
    7#3 ∉ Claims.regWrites base.par .trapOut := by decide

theorem witness_OnlyStoresAndPollsChangeMemory :
    (∃ t, exec (.st 0#3 0#9) base = .next t) ∧ Claims.storedCell base (.st 0#3 0#9) ≠ some 0x3001#16 ∧
    Claims.readsStatus base (.st 0#3 0#9) = false ∧
    Claims.readsStatus (base.setPc 0xFE00#16) (.ld 0#3 0#9) = true ∧ (0x0000#16 : Word) ≠ base.par.kbsrAddr ∧
    (0x0000#16 : Word) ≠ base.par.kbdrAddr := ⟨⟨_, rfl⟩, by decide, by decide, by decide, by decide, by decide⟩

theorem witness_OnlyListedInstructionsUseTheConsole : (∃ t, exec (.jmp 0#3) base = .next t) ∧
    Instr.jmp 0#3 ∉ Claims.consumes ∧ Claims.readsStatus base (.jmp 0#3) = false ∧ Instr.jmp 0#3 ∉ Claims.puts :=
  ⟨⟨_, rfl⟩, by decide, by decide, by decide⟩

theorem witness_OutputOnlyGrows : base.Inv ∧ ∃ t, step (code 0xF021#16 base) = .next t :=
  ⟨witness_EveryStepKeepsTheInvariant.1, _, rfl⟩

theorem witness_OnlyHaltSetsTheHaltFlag : (Instr.jmp 0#3).wf TrapVectors.lc3 = true ∧ Instr.jmp 0#3 ≠ .trapHalt ∧
    (∃ t, exec (.jmp 0#3) base = .next t) ∧ State.halted { base with halted := true, run := .halted } = true ∧
    ∃ t, step { base with halted := true, run := .halted } = .next t := ⟨rfl, by decide, ⟨_, rfl⟩, rfl, _, rfl⟩

theorem witness_ParametersNeverChange : ∃ t, step base = .next t := ⟨_, rfl⟩

theorem witness_OnlyStringRoutinesAreRefused : Instr.trapPuts.wf TrapVectors.lc3 = true ∧
    (Instr.addReg 0#3 0#3 0#3).wf TrapVectors.lc3 = true := by decide

theorem witness_ImageLoadFillsFromTheOrigin : (0xFFFF#16 : Word).toNat + [0x0000#16].length ≤ 65536 ∧
    65536 < (0xFFFF#16 : Word).toNat + [0x0000#16, 0x0000#16].length ∧ [0x30#8].length % 2 = 1 := by decide

theorem witness_BootStartsAtPcStart : ([] : List (Option (List Byte))).length ≠ 1 ∧
    (∃ s, boot params InitValues.default [some [0x30#8, 0x00#8]] = .started s) ∧
    boot params InitValues.default [some [0x30#8]] = .refused .imageOddLength := ⟨by decide, ⟨_, rfl⟩, rfl⟩

theorem witness_AbortsWriteOnlyTheLink : base.run ≠ .aborted ∧
    ∃ t, exec (.trap 0x26#8) { base with par := { params with strictTrap := true } } = .next t ∧ t.run = .aborted :=
  ⟨by decide, _, rfl, rfl⟩

end Sys2Proof.Tests
end

section
/-!
SUPPORT. The scope statements (00_scope.md): the decoder undoes the encoder (R86, R89), the extensions of R11, and
that no step changes a parameter (R8, R42).
-/

namespace Sys2Proof

/-! ### The low fields and the two mode bits of each format -/

@[simp] theorem fieldImm5_format336 (op : BitVec 4) (f g : BitVec 3) (low : BitVec 6) :
    fieldImm5 (format336 op f g low) = low.extractLsb' 0 5 := by
  unfold fieldImm5 format336
  exact BitVec.extractLsb'_append_eq_of_add_le (by decide)

@[simp] theorem fieldSr2_format336 (op : BitVec 4) (f g : BitVec 3) (low : BitVec 6) :
    fieldSr2 (format336 op f g low) = low.extractLsb' 0 3 := by
  unfold fieldSr2 format336
  exact BitVec.extractLsb'_append_eq_of_add_le (by decide)

@[simp] theorem immediateMode_format336 (op : BitVec 4) (f g : BitVec 3) (low : BitVec 6) :
    immediateMode (format336 op f g low) = low[5] := by
  unfold immediateMode format336
  rw [BitVec.getLsbD_append]
  simp

/-- Bit 11 is the top bit of the first register field. -/
@[simp] theorem longMode_format336 (op : BitVec 4) (f g : BitVec 3) (low : BitVec 6) :
    longMode (format336 op f g low) = f[2] := by
  unfold longMode format336
  rw [BitVec.getLsbD_append, BitVec.getLsbD_append, BitVec.getLsbD_append]
  simp

@[simp] theorem longMode_format12 (op : BitVec 4) (rest : BitVec 12) :
    longMode (format12 op rest) = rest[11] := by
  unfold longMode format12
  rw [BitVec.getLsbD_append]
  simp

@[simp] theorem fieldPcOffset11_format12 (op : BitVec 4) (rest : BitVec 12) :
    fieldPcOffset11 (format12 op rest) = rest.extractLsb' 0 11 := by
  unfold fieldPcOffset11 format12
  exact BitVec.extractLsb'_append_eq_of_add_le (by decide)

@[simp] theorem fieldTrapVect8_format12 (op : BitVec 4) (rest : BitVec 12) :
    fieldTrapVect8 (format12 op rest) = rest.extractLsb' 0 8 := by
  unfold fieldTrapVect8 format12
  exact BitVec.extractLsb'_append_eq_of_add_le (by decide)

/-! ### The operand parts of R86 -/

@[simp] theorem registerOperand_sr2 (sr2 : RegIdx) : (registerOperand sr2).extractLsb' 0 3 = sr2 :=
  BitVec.extractLsb'_append_eq_right

@[simp] theorem registerOperand_mode (sr2 : RegIdx) : (registerOperand sr2)[5] = false := by
  rw [registerOperand, BitVec.getElem_append]
  simp

@[simp] theorem immediateOperand_imm5 (imm5 : BitVec 5) : (immediateOperand imm5).extractLsb' 0 5 = imm5 :=
  BitVec.extractLsb'_append_eq_right

@[simp] theorem immediateOperand_mode (imm5 : BitVec 5) : (immediateOperand imm5)[5] = true := by
  rw [immediateOperand, BitVec.getElem_append]
  simp

@[simp] theorem longOffset_offset (off : BitVec 11) : (longOffset off).extractLsb' 0 11 = off :=
  BitVec.extractLsb'_append_eq_right

@[simp] theorem longOffset_mode (off : BitVec 11) : (longOffset off)[11] = true := by
  rw [longOffset, BitVec.getElem_append]
  simp

@[simp] theorem trapOperand_vector (v : BitVec 8) : (trapOperand v).extractLsb' 0 8 = v :=
  BitVec.extractLsb'_append_eq_right

/-! ### Decoding an encoded instruction -/

/-- Bits 15-12 of the conventional word are the table's value of the opcode (R81, R85). -/
theorem fieldOpcode_encodeWith (m : OpcodeMap) (tv : TrapVectors) (i : Instr) :
    fieldOpcode (encodeWith m tv i) = m.bits i.opcode := by
  cases i with
  | addReg dr sr1 sr2 => exact Laws.OpcodeField.addReg dr sr1 sr2 m tv
  | addImm dr sr1 imm5 => exact Laws.OpcodeField.addImm dr sr1 imm5 m tv
  | andReg dr sr1 sr2 => exact Laws.OpcodeField.andReg dr sr1 sr2 m tv
  | andImm dr sr1 imm5 => exact Laws.OpcodeField.andImm dr sr1 imm5 m tv
  | not dr sr => exact Laws.OpcodeField.not dr sr m tv
  | br nzp off => exact Laws.OpcodeField.br nzp off m tv
  | jmp base => exact Laws.OpcodeField.jmp base m tv
  | jsr off => exact Laws.OpcodeField.jsr off m tv
  | jsrr base => exact Laws.OpcodeField.jsrr base m tv
  | ld dr off => exact Laws.OpcodeField.ld dr off m tv
  | ldi dr off => exact Laws.OpcodeField.ldi dr off m tv
  | ldr dr base off => exact Laws.OpcodeField.ldr dr base off m tv
  | lea dr off => exact Laws.OpcodeField.lea dr off m tv
  | st sr off => exact Laws.OpcodeField.st sr off m tv
  | sti sr off => exact Laws.OpcodeField.sti sr off m tv
  | str sr base off => exact Laws.OpcodeField.str sr base off m tv
  | trap v => exact Laws.OpcodeField.trap v m tv
  | trapGetc => exact Laws.OpcodeField.trapGetc m tv
  | trapOut => exact Laws.OpcodeField.trapOut m tv
  | trapPuts => exact Laws.OpcodeField.trapPuts m tv
  | trapIn => exact Laws.OpcodeField.trapIn m tv
  | trapPutsp => exact Laws.OpcodeField.trapPutsp m tv
  | trapHalt => exact Laws.OpcodeField.trapHalt m tv
  | rti => exact Laws.OpcodeField.rti m tv
  | res => exact Laws.OpcodeField.res m tv

/-- The opcode field of the conventional word selects the opcode. -/
theorem opcodeOf_encodeWith {m : OpcodeMap} (hm : m.wf = true) (tv : TrapVectors) (i : Instr) :
    m.opcodeOf (fieldOpcode (encodeWith m tv i)) = i.opcode := by
  rw [fieldOpcode_encodeWith, OpcodeMap.opcodeOf_bits hm]

/-- The vector of a service selects the service's row (R92). -/
theorem trapOfVector_vector {tv : TrapVectors} (h : tv.wf = true) (k : Service) :
    trapOfVector tv (tv.vector k) = k.instr := by
  simp [trapOfVector, TrapVectors.serviceOf_vector h]

/-- An unrecognized vector selects the generic row (R92). -/
theorem trapOfVector_of_wf {tv : TrapVectors} {v : BitVec 8} (h : (Instr.trap v).wf tv = true) :
    trapOfVector tv v = .trap v := by
  have hn : tv.serviceOf v = none := Option.isNone_iff_eq_none.1 h
  simp [trapOfVector, hn]

/-- A word with the opcode TRAP decodes by its vector alone (R92). -/
theorem decodeWith_trapWord {m : OpcodeMap} (hm : m.wf = true) (tv : TrapVectors) (v : BitVec 8) :
    decodeWith m tv (format12 m.trap (trapOperand v)) = trapOfVector tv v := by
  have ho : m.opcodeOf m.trap = .trap := OpcodeMap.opcodeOf_bits hm .trap
  simp [decodeWith, ho]

/-- Decoding undoes encoding, under any two tables of distinct values (R86, R89). Only a TRAP row depends on the
table of vectors; in every other row the fields are read back. -/
theorem decodeWith_encodeWith {m : OpcodeMap} {tv : TrapVectors} (hm : m.wf = true) (htv : tv.wf = true) {i : Instr}
    (hi : i.wf tv = true) : decodeWith m tv (encodeWith m tv i) = i := by
  cases i with
  | trap v => exact (decodeWith_trapWord hm tv v).trans (trapOfVector_of_wf hi)
  | trapGetc => exact (decodeWith_trapWord hm tv _).trans (trapOfVector_vector htv .getc)
  | trapOut => exact (decodeWith_trapWord hm tv _).trans (trapOfVector_vector htv .out)
  | trapPuts => exact (decodeWith_trapWord hm tv _).trans (trapOfVector_vector htv .puts)
  | trapIn => exact (decodeWith_trapWord hm tv _).trans (trapOfVector_vector htv .input)
  | trapPutsp => exact (decodeWith_trapWord hm tv _).trans (trapOfVector_vector htv .putsp)
  | trapHalt => exact (decodeWith_trapWord hm tv _).trans (trapOfVector_vector htv .halt)
  | _ =>
    rw [decodeWith, opcodeOf_encodeWith hm]
    simp [encodeWith, Instr.opcode]

/-- Settles O1: the opcode field selects the opcode, and each field of the format reads back its operand. -/
theorem decodeOfEncodeIsIdentity : Obligations.DecodeOfEncodeIsIdentity :=
  ⟨fun _ _ hm htv _ hi => decodeWith_encodeWith hm htv hi,
    fun _ hi => decodeWith_encodeWith lc3_tables_wf.1 lc3_tables_wf.2 hi⟩

end Sys2Proof

namespace Sys2Proof.Machine

/-! ### The extensions of R11 -/

/-- Below the top bit a sign extension has the field's bits, and from there up the top bit. -/
theorem getLsbD_signExtend_min {w n k : Nat} (v : BitVec (w + 1)) (hk : k < n) :
    (v.signExtend n).getLsbD k = v.getLsbD (min k w) := by
  rw [BitVec.getLsbD_signExtend]
  by_cases h : k < w + 1
  · simp [hk, h, Nat.min_eq_left (Nat.le_of_lt_succ h)]
  · simp [hk, h, Nat.min_eq_right (by omega : w ≤ k), BitVec.msb_eq_getLsbD_last]

/-- A zero-extended byte is the byte under a zero byte. -/
theorem zext16_eq_append (b : Byte) : zext16 b = 0x00#8 ++ b :=
  (BitVec.setWidth_eq_append (by decide)).trans (BitVec.cast_eq _ _)

/-- Settles O5: one fact about sign extension at every width, read at the four widths of the fields. -/
theorem extensionsReplicateTheTopBit : Obligations.ExtensionsReplicateTheTopBit :=
  ⟨fun v _ => getLsbD_signExtend_min v, fun v _ => getLsbD_signExtend_min v, fun v _ => getLsbD_signExtend_min v,
    fun v _ => getLsbD_signExtend_min v, zext16_eq_append⟩

/-! ### The parameters -/

/-- Where the outcome is a next state, its parameters are `p`. -/
def NextHasPar (p : Params) (o : StepOutcome) : Prop := ∀ t, o = .next t → t.par = p

@[simp] theorem nextHasPar_next (p : Params) (t : State) : NextHasPar p (.next t) ↔ t.par = p := by
  simp [NextHasPar]

@[simp] theorem nextHasPar_refused (p : Params) (r : Refusal) : NextHasPar p (.refused r) := by
  simp [NextHasPar]

@[simp] theorem consumeGetc_par (s : State) : s.consumeGetc.par = s.par := by
  rcases consumeGetc_cases s with ⟨b, rest, -, e⟩ | ⟨-, -, e⟩ | ⟨-, -, e⟩ <;> rw [e] <;> rfl

@[simp] theorem consumeIn_par (s : State) : s.consumeIn.par = s.par := by
  cases hs : s.stopsBeforeEcho with
  | false => rcases consumeIn_cases s hs with ⟨b, rest, -, e⟩ | ⟨-, -, e⟩ | ⟨-, -, e⟩ <;> rw [e] <;> rfl
  | true => rcases consumeIn_stopped s hs with ⟨b, rest, -, e⟩ | ⟨-, -, e⟩ | ⟨-, -, e⟩ <;> rw [e] <;> rfl

@[simp] theorem loadFrom_par (s : State) (dr : RegIdx) (a : Word) : (s.loadFrom dr a).par = s.par := by
  simp [State.loadFrom]

theorem putString_par (s : State) (bytes : Word → List Byte) : NextHasPar s.par (s.putString bytes) := by
  rcases putString_cases s bytes with ⟨-, -, e⟩ | ⟨-, e⟩ | ⟨-, e⟩ | ⟨-, e⟩ <;> rw [e] <;> simp

theorem serviceIn_par (s : State) : NextHasPar s.par s.serviceIn := by
  unfold State.serviceIn
  rcases putThen_cases s s.par.inPrompt 1 (fun t => .next t.consumeIn) with ⟨-, -, -, e⟩ | e <;> rw [e] <;> simp

theorem serviceHalt_par (s : State) : NextHasPar s.par s.serviceHalt := by
  rcases serviceHalt_cases s with ⟨-, -, e⟩ | e <;> rw [e] <;> simp

/-- No service routine changes a parameter. -/
theorem service_par (s : State) (k : Service) : NextHasPar s.par (s.service k) := by
  cases k with
  | getc => simp [State.service, State.serviceGetc]
  | out => simp [State.service, State.serviceOut]
  | puts => exact putString_par s putsBytes
  | input => exact serviceIn_par s
  | putsp => exact putString_par s putspBytes
  | halt => exact serviceHalt_par s

theorem execTrap_par (v : BitVec 8) (s : State) : NextHasPar s.par (execTrap v s) := by
  rcases execTrap_cases v s with ⟨k, -, e⟩ | ⟨-, -, e⟩ | ⟨-, -, e⟩ <;> rw [e]
  · exact service_par s.trapLink k
  · simp
  · simp

theorem execBr_par (nzp : BitVec 3) (off : BitVec 9) (s : State) : NextHasPar s.par (execBr nzp off s) := by
  unfold execBr
  split <;> simp

theorem execJsrr_par (base : RegIdx) (s : State) : NextHasPar s.par (execJsrr base s) := by
  unfold execJsrr
  split <;> simp

/-- No instruction changes a parameter. -/
theorem exec_par (i : Instr) (s : State) : NextHasPar s.par (exec i s) := by
  cases i with
  | addReg dr sr1 sr2 => simp [exec, execAddReg]
  | addImm dr sr1 imm5 => simp [exec, execAddImm]
  | andReg dr sr1 sr2 => simp [exec, execAndReg]
  | andImm dr sr1 imm5 => simp [exec, execAndImm]
  | not dr sr => simp [exec, execNot]
  | br nzp off => exact execBr_par nzp off s
  | jmp base => simp [exec, execJmp]
  | jsr off => simp [exec, execJsr]
  | jsrr base => exact execJsrr_par base s
  | ld dr off => simp [exec, execLd]
  | ldi dr off => simp [exec, execLdi]
  | ldr dr base off => simp [exec, execLdr]
  | lea dr off => simp [exec, execLea]
  | st sr off => simp [exec, execSt]
  | sti sr off => simp [exec, execSti]
  | str sr base off => simp [exec, execStr]
  | trap v => exact execTrap_par v s
  | trapGetc => exact service_par s.trapLink .getc
  | trapOut => exact service_par s.trapLink .out
  | trapPuts => exact service_par s.trapLink .puts
  | trapIn => exact service_par s.trapLink .input
  | trapPutsp => exact service_par s.trapLink .putsp
  | trapHalt => exact service_par s.trapLink .halt
  | rti => simp [exec, execRti]
  | res => simp [exec, execRes]

theorem coreTurn_par (s : State) : NextHasPar s.par s.coreTurn := by
  rcases coreTurn_cases s with ⟨-, e⟩ | ⟨-, e⟩ | ⟨-, e⟩ <;> rw [e]
  · simpa using exec_par (s.decode s.fetch.1) s.fetch.2
  · simp
  · simp

@[simp] theorem endTurn_par (s : State) : s.endTurn.par = s.par := by
  rcases endTurn_cases s with e | ⟨-, e⟩
  · rw [e]
  · rw [e, interrupt_par]

@[simp] theorem hostAppend_par (s : State) (b : Byte) : (s.hostAppend b).par = s.par := by
  unfold State.hostAppend
  split <;> rfl

theorem hostMove_par {s t : State} (h : s.hostMove = some t) : t.par = s.par := by
  rcases hostMove_cases h with ⟨b, rest, -, rfl⟩ | ⟨rest, -, rfl⟩ | ⟨rest, -, rfl⟩ <;> simp

/-- Settles O55: an ended run stays, a host move keeps the parameters, and so does the core's turn. -/
theorem parametersNeverChange : Obligations.ParametersNeverChange := by
  intro s t h
  rcases step_next_cases h with ⟨-, rfl⟩ | ⟨-, hm⟩ | ⟨-, -, u, hu, rfl⟩
  · rfl
  · exact hostMove_par hm
  · rw [endTurn_par, coreTurn_par s u hu]

end Sys2Proof.Machine
end

section
/-!
SUPPORT. The statements of the state (10_state.md): what an instruction writes, that every step keeps the invariant,
and the values at the start.
-/

namespace Sys2Proof.Machine

open Sys2Proof.Claims

/-! ### Data reads -/

/-- Data reads lead from `s` to `u`: at most memory, the input and the count of draws have changed, and nothing
where none of them `polls` (R52, R54). -/
structure DataRead (polls : Bool) (s u : State) : Prop where
  frame : u = { s with mem := u.mem, inq := u.inq, draws := u.draws }
  memWf : s.mem.wf = true → u.mem.wf = true
  unpolled : polls = false → u = s

theorem DataRead.refl (polls : Bool) (s : State) : DataRead polls s s := ⟨rfl, id, fun _ => rfl⟩

theorem DataRead.reg {polls : Bool} {s u : State} (h : DataRead polls s u) (r : RegIdx) : u.reg r = s.reg r := by
  rw [h.frame]
  rfl

theorem DataRead.pc {polls : Bool} {s u : State} (h : DataRead polls s u) : u.pc = s.pc := by rw [h.frame]

theorem DataRead.cond {polls : Bool} {s u : State} (h : DataRead polls s u) : u.cond = s.cond := by rw [h.frame]

theorem DataRead.par {polls : Bool} {s u : State} (h : DataRead polls s u) : u.par = s.par := by rw [h.frame]

theorem DataRead.outputKept {polls : Bool} {s u : State} (h : DataRead polls s u) : OutputKept s u := by
  rw [h.frame]
  exact ⟨rfl, rfl⟩

theorem DataRead.runKept {polls : Bool} {s u : State} (h : DataRead polls s u) : RunKept s u := by
  rw [h.frame]
  exact ⟨rfl, rfl, rfl⟩

theorem DataRead.trans {p q : Bool} {s u v : State} (h : DataRead p s u) (k : DataRead q u v) :
    DataRead (p || q) s v where
  frame := k.frame.trans (by rw [h.frame])
  memWf hw := k.memWf (h.memWf hw)
  unpolled hpq := by
    obtain ⟨hp, hq⟩ := Bool.or_eq_false_iff.1 hpq
    exact (k.unpolled hq).trans (h.unpolled hp)

/-- The refresh of the keyboard cells changes only memory, the input and the count of draws (R54). -/
theorem refreshKeyboard_frame (s : State) : s.refreshKeyboard =
    { s with mem := s.refreshKeyboard.mem, inq := s.refreshKeyboard.inq, draws := s.refreshKeyboard.draws } := by
  rcases refreshKeyboard_cases s with ⟨b, rest, -, e⟩ | ⟨-, -, e⟩ | ⟨-, -, -, e⟩ | ⟨-, -, -, e⟩ <;> rw [e] <;> rfl

theorem memRead_dataRead (s : State) (a : Word) : DataRead (a == s.par.kbsrAddr) s (s.memRead a).2 := by
  by_cases h : a = s.par.kbsrAddr
  · rw [memRead_of_eq h]
    exact ⟨refreshKeyboard_frame s, refreshKeyboard_wf, by simp [h]⟩
  · rw [memRead_of_ne h]
    exact .refl _ s

/-- The two reads of LDI: the pointer, then the cell it points at (R141). -/
theorem memRead_memRead_dataRead (s : State) (a : Word) :
    DataRead (a == s.par.kbsrAddr || (s.memRead a).1 == s.par.kbsrAddr) s
      ((s.memRead a).2.memRead (s.memRead a).1).2 := by
  have h := memRead_dataRead (s.memRead a).2 (s.memRead a).1
  rw [memRead_par] at h
  exact (memRead_dataRead s a).trans h

/-! ### The families of instructions -/

/-- How an instruction that answers a next state leads from `s` to it, by the family of its row: a flag-setting
write (R30), a transfer of control (R24), a store (R150 to R152), TRAP with a service's vector and with an
unrecognized one (R160, R172), an undefined opcode (R180, R181). -/
inductive Effect (s : State) (i : Instr) : State → Prop
  | flagged {dr : RegIdx} {u : State} (v : Word) (hd : flagDest i = some dr)
      (hu : DataRead (readsStatus s i) s u) : Effect s i (u.setRegCond dr v)
  | transfer (target : Word) (hi : isTransfer i = true) : Effect s i (s.setPc target)
  | linked (target : Word) (hi : isTransfer i = true) (hw : ∀ p, regWrites p i = [7#3]) :
      Effect s i (s.link.setPc target)
  | store {u : State} (a v : Word) (hi : (storedCell s i).isSome = true)
      (hu : DataRead (readsStatus s i) s u) : Effect s i (u.memWrite a v)
  | service {t : State} (k : Service)
      (hi : i = k.instr ∨ ∃ v, i = .trap v ∧ s.par.trapVec.serviceOf v = some k)
      (ht : s.trapLink.service k = .next t) : Effect s i t
  | ignored (v : BitVec 8) (hi : i = .trap v) : Effect s i s.trapLink
  | strict (v : BitVec 8) (hi : i = .trap v) : Effect s i (s.strictLink.abort .unknownTrapVector)
  | undefined (reason : AbortReason) (hi : i = .res ∨ i = .rti) : Effect s i (s.abort reason)

theorem execBr_effect {nzp : BitVec 3} {off : BitVec 9} {s t : State} (h : execBr nzp off s = .next t) :
    Effect s (.br nzp off) t := by
  unfold execBr at h
  split at h <;> cases h
  · exact .transfer _ rfl
  · exact .transfer s.pc rfl

theorem execJsrr_effect {base : RegIdx} {s t : State} (h : execJsrr base s = .next t) :
    Effect s (.jsrr base) t := by
  unfold execJsrr at h
  split at h <;> cases h <;> exact .linked _ rfl fun _ => rfl

theorem execTrap_effect {v : BitVec 8} {s t : State} (h : execTrap v s = .next t) : Effect s (.trap v) t := by
  rcases execTrap_cases v s with ⟨k, hk, e⟩ | ⟨-, -, e⟩ | ⟨-, -, e⟩ <;> rw [e] at h
  · exact .service k (.inr ⟨v, rfl, hk⟩) h
  · cases h
    exact .strict v rfl
  · cases h
    exact .ignored v rfl

/-- Every next state of an instruction comes from it by the effect of its family. -/
theorem exec_effect {i : Instr} {s t : State} (h : exec i s = .next t) : Effect s i t := by
  cases i with
  | addReg dr sr1 sr2 => cases h; exact .flagged _ rfl (.refl _ s)
  | addImm dr sr1 imm5 => cases h; exact .flagged _ rfl (.refl _ s)
  | andReg dr sr1 sr2 => cases h; exact .flagged _ rfl (.refl _ s)
  | andImm dr sr1 imm5 => cases h; exact .flagged _ rfl (.refl _ s)
  | not dr sr => cases h; exact .flagged _ rfl (.refl _ s)
  | lea dr off => cases h; exact .flagged _ rfl (.refl _ s)
  | ld dr off => cases h; exact .flagged _ rfl (memRead_dataRead s _)
  | ldi dr off => cases h; exact .flagged _ rfl (memRead_memRead_dataRead s _)
  | ldr dr base off => cases h; exact .flagged _ rfl (memRead_dataRead s _)
  | br nzp off => exact execBr_effect h
  | jmp base => cases h; exact .transfer _ rfl
  | jsr off => cases h; exact .linked _ rfl fun _ => rfl
  | jsrr base => exact execJsrr_effect h
  | st sr off => cases h; exact .store _ _ rfl (.refl _ s)
  | sti sr off => cases h; exact .store _ _ rfl (memRead_dataRead s _)
  | str sr base off => cases h; exact .store _ _ rfl (.refl _ s)
  | trap v => exact execTrap_effect h
  | trapGetc => exact .service .getc (.inl rfl) h
  | trapOut => exact .service .out (.inl rfl) h
  | trapPuts => exact .service .puts (.inl rfl) h
  | trapIn => exact .service .input (.inl rfl) h
  | trapPutsp => exact .service .putsp (.inl rfl) h
  | trapHalt => exact .service .halt (.inl rfl) h
  | rti => cases h; exact .undefined _ (.inr rfl)
  | res => cases h; exact .undefined _ (.inl rfl)

/-- A well-formed instruction that runs a service's routine is the service's own row (R92). -/
theorem eq_service_instr {tv : TrapVectors} {i : Instr} {k : Service} (hwf : i.wf tv = true)
    (hi : i = k.instr ∨ ∃ v, i = .trap v ∧ tv.serviceOf v = some k) : i = k.instr := by
  rcases hi with hi | ⟨v, rfl, hv⟩
  · exact hi
  · simp [Instr.wf, hv] at hwf

/-! ### The service routines -/

/-- How the run stands after an instruction: as before; HALTED with the halt flag set; ABORTED with a reason; or
INTERRUPTED, with the halt flag perhaps set inside HALT's notice (R35, R191, R198, log entry 11). -/
def RunMove (s t : State) : Prop :=
  RunKept s t ∨
  (t.run = .halted ∧ t.halted = true ∧ t.abortReason = s.abortReason) ∨
  (t.run = .aborted ∧ t.halted = s.halted ∧ t.abortReason.isSome = true) ∨
  (t.run = .interrupted ∧ (t.halted = s.halted ∨ t.halted = (s.halted || s.par.haltFlagEarly)) ∧
    t.abortReason = s.abortReason)

/-- What the routine of a service leaves alone (R170, R36), and how it moves the output and the run. -/
structure RoutineEffect (k : Service) (s t : State) : Prop where
  pc : t.pc = s.pc
  cond : t.cond = s.cond
  mem : t.mem = s.mem
  par : t.par = s.par
  reg : ∀ r, (k.instr ∈ consumes → r ≠ 0#3) → t.reg r = s.reg r
  input : k.instr ∉ consumes → InputKept s t
  output : k.instr ∉ puts → OutputKept s t
  halted : k ≠ .halt → t.halted = s.halted
  goesOn : k ≠ .halt → t.run = s.run ∨ t.run = .interrupted
  wait : k = .halt → t.wait = s.wait
  grows : s.out <+: t.out
  delivered : t.delivered = s.delivered ∨ t.delivered = t.out.length
  run : RunMove s t

/-- The routine goes on from the puts, or the run is stopped among them (R171, R198). -/
theorem putThen_next_cases {s t : State} {bs : List Byte} {later : Nat} {f : State → State}
    (h : s.putThen bs later (fun u => .next (f u)) = .next t) :
    (∃ n, t = (s.put (bs.take n)).interrupt) ∨ t = f (s.put bs) := by
  rcases putThen_cases s bs later (fun u => .next (f u)) with ⟨-, -, -, e⟩ | e <;> rw [e] at h <;> cases h
  · exact .inl ⟨_, rfl⟩
  · exact .inr rfl

theorem consumeGetc_effect (s : State) : RoutineEffect .getc s s.consumeGetc := by
  unfold State.consumeGetc
  rcases hc : s.consume with _ | ⟨v, t⟩
  · constructor <;> simp [Service.instr, consumes, puts, OutputKept, RunMove, RunKept]
    exact fun r _ => rfl
  · obtain ⟨q, rfl⟩ : ∃ q, t = { s with inq := q } := ⟨_, consume_some hc⟩
    constructor <;> simp [Service.instr, consumes, puts, OutputKept, RunMove, RunKept]
    exact fun r hr => setReg_reg_ne _ _ hr

/-- The part of IN after its prompt takes a character and echoes it, or is stopped before the echo, or waits. -/
theorem consumeIn_effect (s : State) : RoutineEffect .input s s.consumeIn := by
  unfold State.consumeIn
  rcases hc : s.consume with _ | ⟨v, t⟩
  · constructor <;> simp [Service.instr, consumes, puts, RunMove, RunKept]
    exact fun r _ => rfl
  · obtain ⟨q, rfl⟩ : ∃ q, t = { s with inq := q } := ⟨_, consume_some hc⟩
    dsimp only
    split
    · constructor <;> simp [Service.instr, consumes, puts, RunMove]
      exact fun r _ => rfl
    · constructor <;> simp [Service.instr, consumes, puts, RunMove, RunKept]
      exact fun r hr => setReg_reg_ne _ _ hr

/-- PUTS and PUTSP write nothing but the output (R166, R168). -/
theorem putString_effect {k : Service} (hk : k = .puts ∨ k = .putsp) {bytes : Word → List Byte} {s t : State}
    (h : s.putString bytes = .next t) : RoutineEffect k s t := by
  have hp : k.instr ∈ puts ∧ k ≠ .halt := by rcases hk with rfl | rfl <;> decide
  rcases putString_cases s bytes with ⟨-, -, e⟩ | ⟨-, e⟩ | ⟨-, e⟩ | ⟨-, e⟩ <;> rw [e] at h <;> cases h
  · constructor <;> simp [hp, InputKept, RunMove]
  · constructor <;> simp [hp, InputKept, RunMove, RunKept]

theorem serviceIn_effect {s t : State} (h : s.serviceIn = .next t) : RoutineEffect .input s t := by
  rcases putThen_next_cases h with ⟨n, rfl⟩ | rfl
  · constructor <;> simp [Service.instr, consumes, puts, RunMove]
  · have he := consumeIn_effect (s.put s.par.inPrompt)
    exact { he with
      input := fun h => absurd (by decide) h
      output := fun h => absurd (by decide) h
      grows := (List.prefix_append _ _).trans he.grows }

theorem serviceHalt_effect {s t : State} (h : s.serviceHalt = .next t) : RoutineEffect .halt s t := by
  rcases serviceHalt_cases s with ⟨-, -, e⟩ | e <;> rw [e] at h <;> cases h
  · constructor <;> simp [Service.instr, puts, InputKept, RunMove]
    exact fun r _ => rfl
  · constructor <;> simp [Service.instr, puts, InputKept, RunMove]
    exact fun r _ => rfl

/-- Every next state of a service's routine. -/
theorem service_effect {k : Service} {s t : State} (h : s.service k = .next t) : RoutineEffect k s t := by
  cases k with
  | getc => cases h; exact consumeGetc_effect s
  | out =>
    cases h
    constructor <;> simp [Service.instr, puts, InputKept, RunMove, RunKept]
  | puts => exact putString_effect (.inl rfl) h
  | input => exact serviceIn_effect h
  | putsp => exact putString_effect (.inr rfl) h
  | halt => exact serviceHalt_effect h

/-! ### Which instructions write which part of the state -/

/-- The model's condition code of a value is that of R29. -/
theorem flagsOf_condOf (v : Word) : FlagsOf v (condOf v) := by
  have hb : v.getLsbD 15 = true ↔ 0x8000 ≤ v.toNat := by
    rw [← BitVec.msb_eq_getLsbD_last, BitVec.msb_eq_decide]
    simp
  simp only [FlagsOf, condOf, hb]

theorem flagDest_of_isTransfer {i : Instr} (h : isTransfer i = true) : flagDest i = none := by
  cases i <;> simp_all [isTransfer, flagDest]

theorem flagDest_of_storedCell {s : State} {i : Instr} (h : (storedCell s i).isSome = true) : flagDest i = none := by
  cases i <;> simp_all [storedCell, flagDest]

theorem flagDest_service (k : Service) : flagDest k.instr = none := by cases k <;> rfl

theorem regWrites_of_flagDest {i : Instr} {dr : RegIdx} (h : flagDest i = some dr) (p : Params) :
    regWrites p i = [dr] := by
  cases i <;> simp_all [regWrites, flagDest]

/-- Settles O47: only a flag-setting write reaches the condition code; every other family leaves it alone. -/
theorem onlyFlagSettersWriteTheConditionCode : Obligations.OnlyFlagSettersWriteTheConditionCode := by
  intro i s t h
  have unflagged : flagDest i = none → t.cond = s.cond →
      (∀ dr, flagDest i = some dr → FlagsOf (t.reg dr) t.cond) ∧ (flagDest i = none → t.cond = s.cond) :=
    fun hd hc => ⟨fun dr hdr => by simp [hd] at hdr, fun _ => hc⟩
  cases exec_effect h with
  | flagged v hd hu =>
    simp only [hd, Option.some.injEq, reduceCtorEq, false_implies, and_true]
    rintro _ rfl
    simpa [setRegCond_reg] using flagsOf_condOf v
  | transfer _ hi => exact unflagged (flagDest_of_isTransfer hi) rfl
  | linked _ hi => exact unflagged (flagDest_of_isTransfer hi) rfl
  | store _ _ hi hu => exact unflagged (flagDest_of_storedCell hi) hu.cond
  | service k hi ht =>
    refine unflagged ?_ (service_effect ht).cond
    rcases hi with rfl | ⟨v, rfl, -⟩
    · exact flagDest_service k
    · rfl
  | ignored _ hi => exact unflagged (by rw [hi]; rfl) rfl
  | strict _ hi => exact unflagged (by rw [hi]; rfl) rfl
  | undefined _ hi => exact unflagged (by rcases hi with rfl | rfl <;> rfl) rfl

/-- Settles O48: only the two families of transfers write `pc`. -/
theorem onlyTransfersWriteThePc : Obligations.OnlyTransfersWriteThePc := by
  refine ⟨fetch_pc, fun i s t hn h => ?_⟩
  cases exec_effect h with
  | flagged _ _ hu => exact hu.pc
  | transfer _ hi => exact absurd hi (by simp [hn])
  | linked _ hi => exact absurd hi (by simp [hn])
  | store _ _ _ hu => exact hu.pc
  | service _ _ ht => exact (service_effect ht).pc
  | ignored | strict | undefined => rfl

/-- A register outside a service's row is not written by the routine, nor linked by TRAP (R21, R161). -/
theorem not_mem_regWrites_service {p : Params} {k : Service} {r : RegIdx} (h : r ∉ regWrites p k.instr) :
    (k.instr ∈ consumes → r ≠ 0#3) ∧ (p.trapLinksR7 = true → r ≠ 7#3) := by
  cases hp : p.trapLinksR7 <;> cases k <;> simp_all [regWrites, Service.instr, consumes]

theorem not_mem_regWrites_trap {p : Params} {v : BitVec 8} {r : RegIdx} (h : r ∉ regWrites p (.trap v)) :
    p.trapLinksR7 = true → r ≠ 7#3 := by
  intro hp
  simpa [regWrites, hp] using h

theorem trapLink_reg_of_not_linked {s : State} {r : RegIdx} (h : s.par.trapLinksR7 = true → r ≠ 7#3) :
    s.trapLink.reg r = s.reg r := by
  rw [trapLink_reg, if_neg fun ⟨hr, hl⟩ => h hl hr]

theorem strictLink_reg_of_not_linked {s : State} {r : RegIdx} (h : s.par.trapLinksR7 = true → r ≠ 7#3) :
    s.strictLink.reg r = s.reg r := by
  rw [strictLink_reg, if_neg fun ⟨hr, hl, _⟩ => h hl hr]

/-- Settles O49: the one register each family writes stands in its row. -/
theorem onlyListedRegistersAreWritten : Obligations.OnlyListedRegistersAreWritten := by
  intro i s t hwf h r hr
  cases exec_effect h with
  | flagged v hd hu =>
    rw [regWrites_of_flagDest hd, List.mem_singleton] at hr
    rw [setRegCond_reg, if_neg hr, hu.reg]
  | transfer => rfl
  | linked _ _ hw =>
    rw [hw, List.mem_singleton] at hr
    rw [setPc_reg, link_reg, if_neg hr]
  | store _ _ _ hu => exact hu.reg r
  | service k hi ht =>
    rw [eq_service_instr hwf hi] at hr
    obtain ⟨hconsumed, hlinked⟩ := not_mem_regWrites_service hr
    exact ((service_effect ht).reg r hconsumed).trans (trapLink_reg_of_not_linked hlinked)
  | ignored v hi =>
    subst hi
    exact trapLink_reg_of_not_linked (not_mem_regWrites_trap hr)
  | strict v hi =>
    subst hi
    exact strictLink_reg_of_not_linked (not_mem_regWrites_trap hr)
  | undefined => rfl

/-- Settles O52: outside the service routines only a poll reaches the input, and nothing reaches the output. -/
theorem onlyListedInstructionsUseTheConsole : Obligations.OnlyListedInstructionsUseTheConsole := by
  intro i s t hwf h
  cases exec_effect h with
  | flagged _ _ hu | store _ _ _ hu =>
    exact ⟨fun _ hp => by rw [hu.unpolled hp]; exact ⟨rfl, rfl, rfl⟩, fun _ => hu.outputKept⟩
  | service k hi ht =>
    rw [eq_service_instr hwf hi]
    exact ⟨fun hc _ => (service_effect ht).input hc, (service_effect ht).output⟩
  | transfer | linked | ignored | strict | undefined => exact ⟨fun _ _ => ⟨rfl, rfl, rfl⟩, fun _ => ⟨rfl, rfl⟩⟩

/-- Only the routine of HALT reaches the halt flag (R34). -/
theorem exec_halted {i : Instr} {s t : State} (hwf : i.wf s.par.trapVec = true) (hi : i ≠ .trapHalt)
    (h : exec i s = .next t) : t.halted = s.halted := by
  cases exec_effect h with
  | flagged _ _ hu | store _ _ _ hu => exact hu.runKept.1
  | service k hk ht =>
    refine (service_effect ht).halted ?_
    rintro rfl
    exact hi (eq_service_instr hwf hk)
  | transfer | linked | ignored | strict | undefined => rfl

/-! ### What every step does to the parts the invariant speaks of -/

/-- The move from `s` to `t` in the parts the invariant speaks of: memory stays canonical, the parameters stay,
output is appended to and delivered as before or in full, and only a run that goes on or is stopped waits. -/
structure Advance (s t : State) : Prop where
  memWf : s.mem.wf = true → t.mem.wf = true
  par : t.par = s.par
  grows : s.out <+: t.out
  delivered : t.delivered = s.delivered ∨ t.delivered = t.out.length
  run : RunMove s t
  waiting : t.wait ≠ .idle → t.run = s.run ∨ t.run = .interrupted

/-- A move that keeps output and run is an advance where it keeps memory canonical. -/
theorem Advance.of_kept {s t : State} (hm : s.mem.wf = true → t.mem.wf = true) (hp : t.par = s.par)
    (ho : OutputKept s t) (hr : RunKept s t) : Advance s t := by
  obtain ⟨hout, hdelivered⟩ := ho
  exact ⟨hm, hp, by rw [hout], .inl hdelivered, .inl hr, fun _ => .inl hr.2.1⟩

theorem Advance.refl (s : State) : Advance s s := .of_kept id rfl ⟨rfl, rfl⟩ ⟨rfl, rfl, rfl⟩

theorem RoutineEffect.advance {k : Service} {s t : State} (h : RoutineEffect k s t) (hw : s.wait = .idle ∨ k ≠ .halt) :
    Advance s t where
  memWf hm := by rwa [h.mem]
  par := h.par
  grows := h.grows
  delivered := h.delivered
  run := h.run
  waiting ht := h.goesOn fun hk => by
    have hi : s.wait = .idle := hw.resolve_right (not_not_intro hk)
    exact ht ((h.wait hk).trans hi)

/-- The link of a TRAP changes a register alone. -/
theorem Advance.of_trapLink {s t : State} (h : Advance s.trapLink t) : Advance s t :=
  ⟨h.memWf, h.par, h.grows, h.delivered, h.run, h.waiting⟩

/-- An abort of an instruction ends a run that does not wait (R190). -/
theorem abort_advance {s : State} (reason : AbortReason) (hw : s.wait = .idle) : Advance s (s.abort reason) :=
  ⟨id, rfl, List.prefix_rfl, .inl rfl, .inr (.inr (.inl ⟨rfl, rfl, rfl⟩)), fun h => absurd hw h⟩

theorem exec_advance {i : Instr} {s t : State} (hw : s.wait = .idle) (h : exec i s = .next t) : Advance s t := by
  cases exec_effect h with
  | flagged _ _ hu => exact .of_kept hu.memWf hu.par hu.outputKept hu.runKept
  | store _ _ _ hu => exact .of_kept (fun hm => Memory.write_wf _ _ (hu.memWf hm)) hu.par hu.outputKept hu.runKept
  | service _ _ ht => exact .of_trapLink ((service_effect ht).advance (.inl hw))
  | transfer | linked | ignored => exact .of_kept id rfl ⟨rfl, rfl⟩ ⟨rfl, rfl, rfl⟩
  | strict _ _ =>
    have ha : Advance s.strictLink (s.strictLink.abort .unknownTrapVector) := abort_advance _ hw
    exact ⟨ha.memWf, ha.par, ha.grows, ha.delivered, ha.run, ha.waiting⟩
  | undefined reason _ => exact abort_advance reason hw

/-- The fetch changes nothing but `pc` and, where it polls, memory and the input (R71, R110). -/
theorem Advance.of_fetch {s t : State} (h : Advance s.fetch.2 t) : Advance s t where
  memWf hm := h.memWf (fetch_wf hm)
  par := h.par.trans (fetch_par s)
  grows := by simpa using h.grows
  delivered := by simpa using h.delivered
  run := by simpa [RunMove, RunKept] using h.run
  waiting := by simpa using h.waiting

theorem coreTurn_advance {s t : State} (h : s.coreTurn = .next t) : Advance s t := by
  rcases coreTurn_cases s with ⟨hw, e⟩ | ⟨-, e⟩ | ⟨-, e⟩ <;> rw [e] at h
  · exact .of_fetch (exec_advance (by rw [fetch_wait, hw]) h)
  · cases h
    exact (consumeGetc_effect s).advance (.inr (by decide))
  · cases h
    exact (consumeIn_effect s).advance (.inr (by decide))

/-- A stop that meets a run still going on ends it and changes nothing else (R198). -/
theorem Advance.interrupt {s t : State} (h : Advance s t) (ht : t.run = .running) : Advance s t.interrupt where
  memWf := h.memWf
  par := h.par
  grows := h.grows
  delivered := h.delivered
  run := by
    rcases h.run with ⟨hh, -, ha⟩ | ⟨hr, -⟩ | ⟨hr, -⟩ | ⟨hr, -⟩
    · exact .inr (.inr (.inr ⟨rfl, .inl hh, ha⟩))
    all_goals simp [hr] at ht
  waiting _ := .inr rfl

/-- The host's part of the state does not bear on an advance. -/
theorem Advance.withHostPart {s t : State} (h : Advance s t) (q : List Byte) (c : Bool) (m : List HostMove) :
    Advance s { t with inq := q, closed := c, script := m } :=
  ⟨h.memWf, h.par, h.grows, h.delivered, h.run, h.waiting⟩

theorem Advance.endTurn {s t : State} (h : Advance s t) : Advance s t.endTurn := by
  have hh := h.withHostPart t.inq t.closed t.script.tail
  rcases endTurn_cases t with e | ⟨ht, e⟩ <;> rw [e]
  · exact hh
  · exact hh.interrupt ht

theorem hostMove_advance {s t : State} (hs : s.run = .running) (h : s.hostMove = some t) : Advance s t := by
  rcases hostMove_cases h with ⟨b, rest, -, rfl⟩ | ⟨rest, -, rfl⟩ | ⟨rest, -, rfl⟩
  · unfold State.hostAppend
    split <;> exact (Advance.refl s).withHostPart _ _ _
  · exact (Advance.refl s).withHostPart _ _ _
  · exact ((Advance.refl s).withHostPart s.inq s.closed rest).interrupt hs

/-- Every step is an advance: an ended run stays, the host moves, or the core takes its turn. -/
theorem step_advance {s t : State} (h : step s = .next t) : Advance s t := by
  rcases step_next_cases h with ⟨-, rfl⟩ | ⟨hs, hm⟩ | ⟨-, -, u, hu, rfl⟩
  · exact .refl t
  · exact hostMove_advance hs hm
  · exact (coreTurn_advance hu).endTurn

/-- No advance makes the output shorter or takes back what is delivered, if no more was delivered than put. -/
theorem Advance.delivered_le {s t : State} (h : Advance s t) (hs : s.delivered ≤ s.out.length) :
    s.delivered ≤ t.delivered ∧ t.delivered ≤ t.out.length := by
  have hlen : s.out.length ≤ t.out.length := h.grows.length_le
  rcases h.delivered with hd | hd <;> omega

/-- An advance never clears the halt flag. -/
theorem Advance.halted_of_halted {s t : State} (h : Advance s t) (hs : s.halted = true) : t.halted = true := by
  rcases h.run with ⟨hh, -⟩ | ⟨-, hh, -⟩ | ⟨-, hh, -⟩ | ⟨-, hh | hh, -⟩ <;> simp [hh, hs]

/-- A running machine that meets the invariant has its halt flag clear (R35). -/
theorem State.Inv.not_halted {s : State} (h : s.Inv) (hs : s.run = .running) : s.halted = false := by
  by_contra hh
  rcases h.haltedOnly (by simpa using hh) with hr | ⟨-, hr⟩ <;> simp [hs] at hr

/-- Each way the run can move from RUNNING keeps what the invariant says of the halt flag and the reason. -/
theorem RunMove.keeps {s t : State} (h : RunMove s t) (hs : s.Inv) (hr : s.run = .running) (hp : t.par = s.par) :
    (t.run = .halted → t.halted = true) ∧
    (t.halted = true → t.run = .halted ∨ (t.par.haltFlagEarly = true ∧ t.run = .interrupted)) ∧
    (t.abortReason.isSome = true ↔ t.run = .aborted) := by
  have hh := hs.not_halted hr
  have ha : s.abortReason.isSome = true ↔ s.run = .aborted := hs.abortReason
  rcases h with ⟨th, tr, ta⟩ | ⟨tr, th, ta⟩ | ⟨tr, th, ta⟩ | ⟨tr, th | th, ta⟩ <;> simp_all

theorem Advance.inv {s t : State} (h : Advance s t) (hs : s.Inv) (hr : s.run = .running) : t.Inv := by
  obtain ⟨hset, honly, hreason⟩ := h.run.keeps hs hr h.par
  exact
    { memWf := h.memWf hs.memWf
      delivered := (h.delivered_le hs.delivered).2
      haltedSet := hset
      haltedOnly := honly
      abortReason := hreason
      waiting := fun hw => (h.waiting hw).imp_left fun e => e.trans hr
      keyboard := by rw [h.par]; exact hs.keyboard
      tables := by rw [h.par]; exact hs.tables }

/-- Settles O45: an ended run stays as it is, and from a running one every advance keeps the invariant. -/
theorem everyStepKeepsTheInvariant : Obligations.EveryStepKeepsTheInvariant := by
  intro s t hs h
  by_cases hr : s.run = .running
  · exact (step_advance h).inv hs hr
  · rcases step_next_cases h with ⟨-, rfl⟩ | ⟨hr', -⟩ | ⟨hr', -⟩
    · exact hs
    · exact absurd hr' hr
    · exact absurd hr' hr

/-- Settles O53: every step is an advance. -/
theorem outputOnlyGrows : Obligations.OutputOnlyGrows := fun _ _ hs h =>
  ⟨(step_advance h).grows, ((step_advance h).delivered_le hs.delivered).1⟩

/-- Settles O54: no other routine reaches the halt flag, and no advance clears it. -/
theorem onlyHaltSetsTheHaltFlag : Obligations.OnlyHaltSetsTheHaltFlag :=
  ⟨fun _ _ _ => exec_halted, fun _ _ hs h => (step_advance h).halted_of_halted hs⟩

/-! ### The start, the ended run and the host's moves -/

theorem step_of_ended {s : State} (h : s.ended) : step s = .next s := if_neg h

/-- Settles O7. -/
theorem endedRunsNeverMove : Obligations.EndedRunsNeverMove := fun _ => step_of_ended

theorem step_of_hostMove {s t : State} (hr : s.run = .running) (h : s.hostMove = some t) : step s = .next t := by
  rw [step, if_pos hr, h]

/-- Settles O41: the step is the host's move. -/
theorem hostMovesChangeOnlyTheirPart : Obligations.HostMovesChangeOnlyTheirPart := by
  intro s rest hr
  refine ⟨fun b hs hc => ?_, fun b hs hc => ?_, fun hs => ?_, fun hs => ?_⟩ <;> refine step_of_hostMove hr ?_
  · simp [State.hostMove, hs, State.hostAppend, hc]
  · simp [State.hostMove, hs, State.hostAppend, hc]
  · simp [State.hostMove, hs, State.hostClose]
  · simp [State.hostMove, hs, State.interrupt]

theorem start_inv {p : Params} {v : InitValues} (hm : v.mem.wf = true) (hk : p.wf) (ht : p.tablesWf) :
    (State.start p v).Inv where
  memWf := hm
  delivered := Nat.le_refl 0
  haltedSet := nofun
  haltedOnly := nofun
  abortReason := ⟨nofun, nofun⟩
  waiting h := absurd rfl h
  keyboard := hk
  tables := ht

/-- Settles O46: the reset state is a start state under the spec's defaults. -/
theorem startMeetsTheInvariant : Obligations.StartMeetsTheInvariant :=
  ⟨start_inv reset_mem_wf (by decide) lc3_tables_wf, fun _ _ => start_inv⟩

/-- Settles O57: each field of the start state is the parameter, the start value or the constant it is given. -/
theorem startValues : Obligations.StartValues := by
  refine ⟨fun p v => ?_, ?_⟩
  · exact ⟨rfl, rfl, rfl, rfl, rfl, rfl, rfl, rfl, rfl, rfl, rfl, rfl, rfl, rfl⟩
  · exact ⟨rfl, rfl, rfl, rfl, rfl, rfl, rfl, rfl, rfl, rfl, rfl, rfl, rfl⟩

end Sys2Proof.Machine
end

section
/-!
SUPPORT. A register in neither column of an instruction's row (R21) has no influence: every operation of the
instruction commutes with a write of it.
-/

namespace Sys2Proof.Machine

open Sys2Proof.Claims

/-! ### A register that is not read -/

/-- Register `r` has no influence on `f` from `s`: with another value there the outcome is the same but for that
value. -/
def Ignores (r : RegIdx) (v : Word) (f : State → StepOutcome) (s : State) : Prop :=
  f (s.setReg r v) = onNext (fun t => t.setReg r v) (f s)

theorem setReg_reg_self (s : State) (q : RegIdx) : s.setReg q (s.reg q) = s := by
  simp [State.setReg, State.reg]

theorem setReg_comm {r q : RegIdx} (h : r ≠ q) (s : State) (v w : Word) :
    (s.setReg r v).setReg q w = (s.setReg q w).setReg r v := by
  have hn : r.toNat ≠ q.toNat := fun e => h (BitVec.eq_of_toNat_eq e)
  simp only [State.setReg]
  rw [Vector.set_comm _ _ hn]

theorem setReg_setRegCond {r q : RegIdx} (h : r ≠ q) (s : State) (v w : Word) :
    (s.setReg r v).setRegCond q w = (s.setRegCond q w).setReg r v := by
  simp only [State.setRegCond, State.updateCondition, setReg_comm h, setReg_reg_ne _ _ h.symm, setReg_reg_same]
  rfl

theorem setReg_refreshKeyboard (s : State) (r : RegIdx) (v : Word) :
    (s.setReg r v).refreshKeyboard = s.refreshKeyboard.setReg r v := by
  rcases refreshKeyboard_cases s with ⟨b, rest, hq, e⟩ | ⟨hq, hc, e⟩ | ⟨hq, hc, hd, e⟩ | ⟨hq, hc, hd, e⟩ <;> rw [e] <;>
    simp [State.refreshKeyboard, State.poll, State.consume, *]
  all_goals rfl

theorem setReg_memRead (s : State) (r : RegIdx) (v a : Word) :
    (s.setReg r v).memRead a = ((s.memRead a).1, (s.memRead a).2.setReg r v) := by
  by_cases h : a = s.par.kbsrAddr
  · rw [memRead_of_eq h, memRead_of_eq (s := s.setReg r v) h, setReg_refreshKeyboard]
    rfl
  · rw [memRead_of_ne h, memRead_of_ne (s := s.setReg r v) h]
    rfl

theorem setReg_loadFrom {r dr : RegIdx} (h : r ≠ dr) (s : State) (v a : Word) :
    (s.setReg r v).loadFrom dr a = (s.loadFrom dr a).setReg r v := by
  simp only [State.loadFrom, setReg_memRead, setReg_setRegCond h]

theorem trapLink_of_not_links {s : State} (h : s.par.trapLinksR7 = false) : s.trapLink = s := by
  simp [State.trapLink, h, setReg_reg_self]

theorem strictLink_of_not_links {s : State} (h : s.par.trapLinksR7 = false) : s.strictLink = s := by
  simp [State.strictLink, h, setReg_reg_self]

theorem setReg_trapLink {s : State} {r : RegIdx} (h : s.par.trapLinksR7 = true → r ≠ 7#3) (v : Word) :
    (s.setReg r v).trapLink = s.trapLink.setReg r v := by
  cases hl : s.par.trapLinksR7 with
  | false => rw [trapLink_of_not_links hl, trapLink_of_not_links (s := s.setReg r v) hl]
  | true => simp [State.trapLink, hl, setReg_comm (h hl)]

theorem setReg_strictLink {s : State} {r : RegIdx} (h : s.par.trapLinksR7 = true → r ≠ 7#3) (v : Word) :
    (s.setReg r v).strictLink = s.strictLink.setReg r v := by
  cases hl : s.par.trapLinksR7 with
  | false => rw [strictLink_of_not_links hl, strictLink_of_not_links (s := s.setReg r v) hl]
  | true => simp [State.strictLink, hl, setReg_comm (h hl), setReg_reg_ne _ _ (h hl).symm]

theorem setReg_consume (s : State) (r : RegIdx) (v : Word) :
    (s.setReg r v).consume = s.consume.map fun c => (c.1, c.2.setReg r v) := by
  rcases consume_cases s with ⟨b, rest, hq, e⟩ | ⟨hq, hc, e⟩ | ⟨hq, hc, e⟩ <;> rw [e] <;>
    simp [State.consume, *]
  all_goals rfl

theorem setReg_consumeGetc {r : RegIdx} (h : r ≠ 0#3) (s : State) (v : Word) :
    (s.setReg r v).consumeGetc = s.consumeGetc.setReg r v := by
  unfold State.consumeGetc
  rw [setReg_consume]
  rcases s.consume with _ | ⟨w, t⟩
  · rfl
  · exact congrArg (fun u : State => { u with wait := .idle }) (setReg_comm h t v w)

theorem setReg_consumeIn {r : RegIdx} (h : r ≠ 0#3) (s : State) (v : Word) :
    (s.setReg r v).consumeIn = s.consumeIn.setReg r v := by
  unfold State.consumeIn
  rw [setReg_consume]
  rcases s.consume with _ | ⟨w, t⟩
  · rfl
  · have hx : (s.setReg r v).stopsBeforeEcho = s.stopsBeforeEcho := rfl
    simp only [Option.map_some, hx]
    cases s.stopsBeforeEcho
    · exact congrArg (fun u : State => { u with wait := .idle }) (setReg_comm h (t.put [lowByte w]) v w)
    · rfl

theorem putThen_ignores {r : RegIdx} {v : Word} {s : State} {bs : List Byte} {k : State → StepOutcome} (later : Nat)
    (hk : Ignores r v k (s.put bs)) : Ignores r v (fun u => u.putThen bs later k) s := by
  have hx : (s.setReg r v).stopPoint = s.stopPoint := rfl
  by_cases hs : 0 < s.stopPoint ∧ s.stopPoint ≤ bs.length ∧ s.stopPoint < bs.length + later
  · simp only [Ignores, State.putThen, hx, if_pos hs]
    rfl
  · simp only [Ignores, putThen_of_no_stop hs, putThen_of_no_stop (s := s.setReg r v) hs]
    exact hk

theorem finishString_ignores (r : RegIdx) (v : Word) (e : StringEnd) (s : State) :
    Ignores r v (fun t => t.finishString e) s := by cases e <;> rfl

/-- PUTS and PUTSP read R0 alone (R166, R168). -/
theorem putString_ignores {r : RegIdx} (h : r ≠ 0#3) (v : Word) (bytes : Word → List Byte) (s : State) :
    Ignores r v (fun t => t.putString bytes) s := by
  have hk := putThen_ignores 0 (finishString_ignores r v (s.stringAt bytes (s.reg 0#3)).2
    (s.put (s.stringAt bytes (s.reg 0#3)).1))
  have hx : (s.setReg r v).stringAt bytes ((s.setReg r v).reg 0#3) = s.stringAt bytes (s.reg 0#3) := by
    rw [setReg_reg_ne _ _ h.symm]
    rfl
  simp only [Ignores, State.putString, hx]
  exact hk

theorem service_ignores {k : Service} {r : RegIdx} (hread : r ∉ regReads k.instr)
    (hwritten : k.instr ∈ consumes → r ≠ 0#3) (v : Word) (s : State) : Ignores r v (fun t => t.service k) s := by
  cases k with
  | getc => exact congrArg Host.Outcome.next (setReg_consumeGetc (hwritten (by decide)) s v)
  | out =>
    have h0 : r ≠ 0#3 := by simpa [regReads, Service.instr] using hread
    simp only [Ignores, State.service, State.serviceOut, setReg_reg_ne _ _ h0.symm]
    rfl
  | puts => exact putString_ignores (by simpa [regReads, Service.instr] using hread) v putsBytes s
  | input =>
    have hk : Ignores r v (fun t => .next t.consumeIn) (s.put s.par.inPrompt) :=
      congrArg Host.Outcome.next (setReg_consumeIn (hwritten (by decide)) (s.put s.par.inPrompt) v)
    exact putThen_ignores 1 hk
  | putsp => exact putString_ignores (by simpa [regReads, Service.instr] using hread) v putspBytes s
  | halt =>
    have hk : Ignores r v (fun t => .next { t with halted := true, run := .halted })
        (State.put { s with halted := s.halted || s.par.haltFlagEarly } s.par.haltNotice) := rfl
    exact putThen_ignores 0 hk

/-- A TRAP ignores what its routine ignores, R7 only where TRAP does not link (R161). -/
theorem service_trapLink_ignores {k : Service} {s : State} {r : RegIdx} (hread : r ∉ regReads k.instr)
    (hwritten : r ∉ regWrites s.par k.instr) (v : Word) : Ignores r v (fun t => t.trapLink.service k) s := by
  obtain ⟨hconsumed, hlinked⟩ := not_mem_regWrites_service hwritten
  have h := service_ignores hread hconsumed v s.trapLink
  simp only [Ignores, setReg_trapLink hlinked]
  exact h

theorem execTrap_ignores {s : State} {n : BitVec 8} {r : RegIdx} (hwf : (Instr.trap n).wf s.par.trapVec = true)
    (hwritten : r ∉ regWrites s.par (.trap n)) (v : Word) : Ignores r v (execTrap n) s := by
  have hlinked := not_mem_regWrites_trap hwritten
  have hn : s.par.trapVec.serviceOf n = none := Option.isNone_iff_eq_none.1 hwf
  have e : ∀ t : State, t.par = s.par → execTrap n t = t.trapUnknown := fun t ht => by
    rw [execTrap, ht, hn]
  rw [Ignores, e (s.setReg r v) rfl, e s rfl, State.trapUnknown, State.trapUnknown, setReg_trapLink hlinked,
    setReg_strictLink hlinked, setReg_par]
  cases s.par.strictTrap <;> rfl

/-- A flag-setting write whose value does not depend on the register. -/
theorem setRegCond_ignores {f : State → Word} {s : State} {r dr : RegIdx} {v : Word} (hw : r ∉ [dr])
    (hf : f (s.setReg r v) = f s) : Ignores r v (fun t => .next (t.setRegCond dr (f t))) s := by
  simp only [Ignores, hf, setReg_setRegCond (List.mem_singleton.not.1 hw)]
  rfl

/-- A load from an address that does not depend on the register. -/
theorem loadFrom_ignores {f : State → Word} {s : State} {r dr : RegIdx} {v : Word} (hw : r ∉ [dr])
    (hf : f (s.setReg r v) = f s) : Ignores r v (fun t => .next (t.loadFrom dr (f t))) s := by
  simp only [Ignores, hf, setReg_loadFrom (List.mem_singleton.not.1 hw)]
  rfl

theorem execLdi_ignores {dr r : RegIdx} (hw : r ∉ [dr]) (off : BitVec 9) (s : State) (v : Word) :
    Ignores r v (execLdi dr off) s := by
  simp only [Ignores, execLdi, setReg_memRead, setReg_loadFrom (List.mem_singleton.not.1 hw)]
  rfl

theorem setReg_link {r : RegIdx} (h : r ≠ 7#3) (s : State) (v : Word) : (s.setReg r v).link = s.link.setReg r v :=
  setReg_comm h s v s.pc

theorem execJsrr_ignores {base r : RegIdx} (hr : r ∉ [base]) (hw : r ∉ [7#3]) (s : State) (v : Word) :
    Ignores r v (execJsrr base) s := by
  have hb : base ≠ r := Ne.symm (List.mem_singleton.not.1 hr)
  simp only [Ignores, execJsrr, setReg_link (List.mem_singleton.not.1 hw), setReg_reg_ne _ _ hb, setReg_par]
  split <;> rfl

/-- From any state, an instruction ignores a register in neither column of its row (R21). -/
theorem exec_ignores {i : Instr} {s : State} {r : RegIdx} (v : Word) (hwf : i.wf s.par.trapVec = true)
    (hr : r ∉ regReads i) (hw : r ∉ regWrites s.par i) : Ignores r v (exec i) s := by
  have hread : ∀ q ∈ regReads i, (s.setReg r v).reg q = s.reg q :=
    fun q hq => setReg_reg_ne s v fun e => hr (e ▸ hq)
  cases i with
  | addReg dr sr1 sr2 =>
    exact setRegCond_ignores (f := fun t => t.reg sr1 + t.reg sr2) hw
      (by simp only [hread sr1 (.head _), hread sr2 (.tail _ (.head _))])
  | addImm dr sr1 imm5 =>
    exact setRegCond_ignores (f := fun t => t.reg sr1 + sext5 imm5) hw (by simp only [hread sr1 (.head _)])
  | andReg dr sr1 sr2 =>
    exact setRegCond_ignores (f := fun t => t.reg sr1 &&& t.reg sr2) hw
      (by simp only [hread sr1 (.head _), hread sr2 (.tail _ (.head _))])
  | andImm dr sr1 imm5 =>
    exact setRegCond_ignores (f := fun t => t.reg sr1 &&& sext5 imm5) hw (by simp only [hread sr1 (.head _)])
  | not dr sr => exact setRegCond_ignores (f := fun t => ~~~ t.reg sr) hw (by simp only [hread sr (.head _)])
  | lea dr off => exact setRegCond_ignores (f := fun t => t.pcRel9 off) hw rfl
  | ld dr off => exact loadFrom_ignores (f := fun t => t.pcRel9 off) hw rfl
  | ldi dr off => exact execLdi_ignores hw off s v
  | ldr dr base off =>
    exact loadFrom_ignores (f := fun t => t.baseOffset base off) hw
      (by simp only [State.baseOffset, hread base (.head _)])
  | br nzp off =>
    cases hb : branchTaken nzp s.cond <;> simp only [Ignores, exec, execBr, setReg_cond, hb] <;> rfl
  | jmp base =>
    simp only [Ignores, exec, execJmp, hread base (.head _)]
    rfl
  | jsr off =>
    simp only [Ignores, exec, execJsr, setReg_link (List.mem_singleton.not.1 hw)]
    rfl
  | jsrr base => exact execJsrr_ignores hr hw s v
  | st sr off =>
    simp only [Ignores, exec, execSt, hread sr (.head _)]
    rfl
  | sti sr off =>
    simp only [Ignores, exec, execSti, setReg_memRead, setReg_reg_ne _ _ (Ne.symm (List.mem_singleton.not.1 hr))]
    rfl
  | str sr base off =>
    simp only [Ignores, exec, execStr, State.baseOffset, hread sr (.head _), hread base (.tail _ (.head _))]
    rfl
  | trap n => exact execTrap_ignores hwf hw v
  | trapGetc => exact service_trapLink_ignores (k := .getc) hr hw v
  | trapOut => exact service_trapLink_ignores (k := .out) hr hw v
  | trapPuts => exact service_trapLink_ignores (k := .puts) hr hw v
  | trapIn => exact service_trapLink_ignores (k := .input) hr hw v
  | trapPutsp => exact service_trapLink_ignores (k := .putsp) hr hw v
  | trapHalt => exact service_trapLink_ignores (k := .halt) hr hw v
  | rti => rfl
  | res => rfl

/-- Settles O50: the operations an instruction is made of commute with a write of the register. -/
theorem unlistedRegistersAreNotRead : Obligations.UnlistedRegistersAreNotRead :=
  fun _ _ _ v hwf hr hw => exec_ignores v hwf hr hw

end Sys2Proof.Machine
end

section
/-!
SUPPORT. The statements of memory (20_memory.md): the canonical form, the write, the read of the keyboard-status
cell, the cells an instruction changes, and the loader.
-/

namespace Sys2Proof.Machine

open Sys2Proof.Claims

/-! ### The canonical form -/

/-- With rising addresses the cells listed are the ones found, where they differ from an unlisted cell. -/
theorem lookupCell_eq_iff_mem {l : List (Nat × Word)} (h : l.Pairwise (fun c d => c.1 < d.1)) {a : Nat} {v : Word}
    (hv : v ≠ Config.unlistedCell) : lookupCell l a = v ↔ (a, v) ∈ l := by
  induction l with
  | nil => simpa [lookupCell] using hv.symm
  | cons c rest ih =>
    obtain ⟨k, w⟩ := c
    obtain ⟨hk, hrest⟩ := List.pairwise_cons.1 h
    by_cases e : k = a
    · subst e
      have hnot : (k, v) ∉ rest := fun hm => Nat.lt_irrefl k (hk _ hm)
      simp [lookupCell, hnot, eq_comm]
    · simp [lookupCell, e, Ne.symm e, ih hrest]

/-- The cells a canonical memory lists are the addresses of R50 that read other than an unlisted cell. -/
theorem Memory.mem_cells_iff {m : Memory} (h : m.wf = true) (c : Nat × Word) :
    c ∈ m.cells ↔ c.1 < 65536 ∧ c.2 ≠ Config.unlistedCell ∧ m.read (BitVec.ofNat 16 c.1) = c.2 := by
  obtain ⟨hsorted, hcells⟩ := (Memory.wf_iff m).1 h
  have hread (ha : c.1 < 65536) (hv : c.2 ≠ Config.unlistedCell) :
      m.read (BitVec.ofNat 16 c.1) = c.2 ↔ c ∈ m.cells := by
    rw [Memory.read, BitVec.toNat_ofNat, Nat.mod_eq_of_lt ha, lookupCell_eq_iff_mem hsorted hv]
  constructor
  · intro hc
    obtain ⟨ha, hv⟩ := hcells c hc
    exact ⟨ha, hv, (hread ha hv).2 hc⟩
  · rintro ⟨ha, hv, hr⟩
    exact (hread ha hv).1 hr

/-- Settles O15: the cells of both are the same by what they read, and rising addresses leave one order. -/
theorem canonicalMemoriesThatReadAlikeAreEqual : Obligations.CanonicalMemoriesThatReadAlikeAreEqual := by
  intro m n hm hn h
  have hsm := ((Memory.wf_iff m).1 hm).1
  have hsn := ((Memory.wf_iff n).1 hn).1
  have hnodup {l : List (Nat × Word)} (hs : l.Pairwise (fun c d => c.1 < d.1)) : l.Nodup :=
    hs.imp fun hlt e => Nat.ne_of_lt hlt (congrArg Prod.fst e)
  have hperm : m.cells.Perm n.cells := (List.perm_ext_iff_of_nodup (hnodup hsm) (hnodup hsn)).2 fun c => by
    rw [Memory.mem_cells_iff hm, Memory.mem_cells_iff hn, h]
  have hcells : m.cells = n.cells :=
    hperm.eq_of_pairwise (fun c d _ _ hcd hdc => absurd hdc (Nat.lt_asymm hcd)) hsm hsn
  cases m
  cases n
  exact congrArg Memory.mk hcells

/-! ### The write -/

/-- Settles O11. -/
theorem memWriteSetsOneCell : Obligations.MemWriteSetsOneCell := by
  intro s a v
  refine ⟨Memory.read_write_same s.mem a v, fun b hb => Memory.read_write_ne s.mem v hb, rfl, fun ha => ?_⟩
  rw [memRead_of_ne (s := s.memWrite a v) ha, memWrite_mem, Memory.read_write_same]

/-- A cell written, if it is not the keyboard-status cell, is fetched as the value (R70). -/
theorem fetch_memWrite_same {s : State} {a : Word} (h : a ≠ s.par.kbsrAddr) (v : Word) :
    ((s.memWrite a v).setPc a).fetch.1 = v := by
  rw [fetch_of_ne (s := (s.memWrite a v).setPc a) h]
  exact Memory.read_write_same s.mem a v

/-- Settles O8: ST and STR are one write. -/
theorem storedWordIsFetchedNext : Obligations.StoredWordIsFetchedNext := by
  constructor
  · intro sr off s t ha h
    cases h
    exact fetch_memWrite_same ha (s.reg sr)
  · intro sr base off s t ha h
    cases h
    exact fetch_memWrite_same ha (s.reg sr)

/-! ### The read of the keyboard-status cell -/

/-- Settles O12. -/
theorem plainReadChangesNothing : Obligations.PlainReadChangesNothing := fun _ _ => memRead_of_ne

/-- A read of the keyboard-status cell answers `status`, and leaves it there, `data` in the data cell and `rest` of
the input. The addresses are those of `p`, so that a second read can be said in the words of the first state. -/
structure StatusRead (p : Params) (s : State) (status data : Word) (rest : List Byte) : Prop where
  answer : (s.memRead p.kbsrAddr).1 = status
  statusCell : (s.memRead p.kbsrAddr).2.mem.read p.kbsrAddr = status
  dataCell : (s.memRead p.kbsrAddr).2.mem.read p.kbdrAddr = data
  input : (s.memRead p.kbsrAddr).2.inq = rest

/-- A status read whose poll reports the character `c` (R54). -/
theorem StatusRead.of_ready {s u : State} {c : Word} {rest : List Byte} (hk : s.par.wf)
    (h : s.refreshKeyboard = (u.memWrite s.par.kbsrAddr 0x8000#16).memWrite s.par.kbdrAddr c) (hq : u.inq = rest) :
    StatusRead s.par s 0x8000#16 c rest := by
  constructor <;> simp [memRead_of_eq, h, hq, Memory.read_write_same, Memory.read_write_ne _ _ hk]

/-- A status read whose poll reports no character (R54). -/
theorem StatusRead.of_not_ready {s u : State} {rest : List Byte} (hk : s.par.wf)
    (h : s.refreshKeyboard = u.memWrite s.par.kbsrAddr 0x0000#16) (hm : u.mem = s.mem) (hq : u.inq = rest) :
    StatusRead s.par s 0x0000#16 (s.mem.read s.par.kbdrAddr) rest := by
  constructor <;> simp [memRead_of_eq, h, hq, hm, Memory.read_write_same, Memory.read_write_ne _ _ hk.symm]

section
variable {p : Params} {s : State} (hp : s.par = p) (hk : p.wf)
include hp hk

/-- Everything a status read can do (R54, R37). -/
theorem statusRead_cases :
    (∃ b rest, s.inq = b :: rest ∧ StatusRead p s 0x8000#16 (0x00#8 ++ b) rest) ∨
      (s.inq = [] ∧ s.closed = false ∧ StatusRead p s 0x0000#16 (s.mem.read p.kbdrAddr) []) ∨
      (s.inq = [] ∧ s.closed = true ∧
        (StatusRead p s 0x8000#16 p.eofWord [] ∨ StatusRead p s 0x0000#16 (s.mem.read p.kbdrAddr) [])) := by
  subst hp
  rcases refreshKeyboard_cases s with ⟨b, rest, hq, e⟩ | ⟨hq, hc, e⟩ | ⟨hq, hc, -, e⟩ | ⟨hq, hc, -, e⟩
  · rw [zext16_eq_append] at e
    exact .inl ⟨b, rest, hq, .of_ready hk e rfl⟩
  · exact .inr (.inl ⟨hq, hc, .of_not_ready hk e rfl hq⟩)
  · exact .inr (.inr ⟨hq, hc, .inl (.of_ready hk e hq)⟩)
  · exact .inr (.inr ⟨hq, hc, .inr (.of_not_ready hk e rfl hq)⟩)

/-- With a byte pending a status read takes it. -/
theorem statusRead_of_pending {b : Byte} {rest : List Byte} (hq : s.inq = b :: rest) :
    StatusRead p s 0x8000#16 (0x00#8 ++ b) rest := by
  rcases statusRead_cases hp hk with ⟨b', rest', hq', h⟩ | ⟨hq', -⟩ | ⟨hq', -⟩ <;> rw [hq] at hq' <;> cases hq'
  exact h

/-- With none pending and input open a status read finds nothing. -/
theorem statusRead_of_empty (hq : s.inq = []) (hc : s.closed = false) :
    StatusRead p s 0x0000#16 (s.mem.read p.kbdrAddr) [] := by
  rcases statusRead_cases hp hk with ⟨b, rest, hq', -⟩ | ⟨-, -, h⟩ | ⟨-, hc', -⟩
  · cases hq.symm.trans hq'
  · exact h
  · cases hc.symm.trans hc'

/-- After input has ended a status read is a draw (R37). -/
theorem statusRead_of_ended (hq : s.inq = []) (hc : s.closed = true) :
    StatusRead p s 0x8000#16 p.eofWord [] ∨ StatusRead p s 0x0000#16 (s.mem.read p.kbdrAddr) [] := by
  rcases statusRead_cases hp hk with ⟨b, rest, hq', -⟩ | ⟨-, hc', -⟩ | ⟨-, -, h⟩
  · cases hq.symm.trans hq'
  · cases hc.symm.trans hc'
  · exact h

/-- The status a poll leaves is 0x8000 or 0x0000. -/
theorem statusRead_answer : (s.memRead p.kbsrAddr).1 = 0x8000#16 ∨ (s.memRead p.kbsrAddr).1 = 0x0000#16 := by
  rcases statusRead_cases hp hk with ⟨_, _, -, h⟩ | ⟨-, -, h⟩ | ⟨-, -, h | h⟩
  · exact .inl h.answer
  · exact .inr h.answer
  · exact .inl h.answer
  · exact .inr h.answer

end

/-- A data read changes no cell but, where it polls, the two keyboard cells (R52, R54). -/
theorem memRead_read {s : State} {a b : Word} (h : a = s.par.kbsrAddr → b ≠ s.par.kbsrAddr ∧ b ≠ s.par.kbdrAddr) :
    (s.memRead a).2.mem.read b = s.mem.read b := by
  by_cases e : a = s.par.kbsrAddr
  · rw [memRead_of_eq e]
    exact refreshKeyboard_read (h e).1 (h e).2
  · rw [memRead_of_ne e]

/-- Settles O13: the three ways a status read goes, and what every read leaves alone. -/
theorem statusReadPollsTheKeyboard : Obligations.StatusReadPollsTheKeyboard := by
  intro s hk
  refine ⟨fun b rest hq => ?_, fun hq hc => ?_, fun hq hc => ?_, fun a ha ha' => memRead_read fun _ => ⟨ha, ha'⟩,
    (memRead_dataRead s s.par.kbsrAddr).frame⟩
  · have h := statusRead_of_pending rfl hk hq
    exact ⟨h.answer, h.statusCell, h.dataCell, h.input⟩
  · have h := statusRead_of_empty rfl hk hq hc
    exact ⟨h.answer, h.statusCell, h.dataCell, h.input⟩
  · rcases statusRead_of_ended rfl hk hq hc with h | h
    · exact ⟨h.input, .inl ⟨h.answer, h.statusCell, h.dataCell⟩⟩
    · exact ⟨h.input, .inr ⟨h.answer, h.statusCell, h.dataCell⟩⟩

/-- Settles O14: the second read starts from the input that the first leaves. -/
theorem eachStatusReadTakesOneCharacter : Obligations.EachStatusReadTakesOneCharacter := by
  intro s hk
  have hp : (s.memRead s.par.kbsrAddr).2.par = s.par := memRead_par s _
  have hclosed : (s.memRead s.par.kbsrAddr).2.closed = s.closed := memRead_closed s _
  refine ⟨fun hq hc => ?_, fun b hq hc => ?_, fun b c rest hq => ?_⟩
  · have first := statusRead_of_empty rfl hk hq hc
    have second := statusRead_of_empty hp hk first.input (hclosed.trans hc)
    exact ⟨first.answer, second.answer⟩
  · have first := statusRead_of_pending rfl hk hq
    have second := statusRead_of_empty hp hk first.input (hclosed.trans hc)
    exact ⟨first.answer, first.dataCell, second.answer, second.dataCell.trans first.dataCell⟩
  · have first := statusRead_of_pending rfl hk hq
    have second := statusRead_of_pending hp hk first.input
    exact ⟨first.answer, first.dataCell, second.answer, second.dataCell, second.input⟩

/-- A fetch is a data read of the cell at `pc` (R110). -/
theorem fetch_eq (s : State) : s.fetch = ((s.memRead s.pc).1, (s.memRead s.pc).2.setPc (s.pc + 1)) := by
  rw [State.fetch, memRead_pc]

/-- Settles O9: the fetch is a status read, and the two status words decode under the tables of R85 and R162. -/
theorem fetchOfTheStatusCellPolls : Obligations.FetchOfTheStatusCellPolls := by
  intro s hk hpc
  have hword : s.fetch.1 = (s.memRead s.par.kbsrAddr).1 := by rw [fetch_eq, hpc]
  have hstate : s.fetch.2 = s.refreshKeyboard.setPc (s.pc + 1) := by rw [fetch_eq, memRead_of_eq hpc]
  refine ⟨hstate, ?_, ?_, fun ⟨hops, htraps⟩ h => ?_, fun ⟨hops, htraps⟩ h => ?_⟩
  · rw [hword, hstate, memRead_of_eq rfl]
    rfl
  · rw [hword]
    exact statusRead_answer rfl hk
  · rw [h, State.decode, hops, htraps]
    decide
  · rw [h, State.decode, hops, htraps]
    decide

/-! ### The cells an instruction changes -/

/-- An instruction that neither stores nor polls leaves memory as it is. -/
theorem exec_mem_of_no_access {i : Instr} {s t : State} (h : exec i s = .next t) (hstore : storedCell s i = none)
    (hpoll : readsStatus s i = false) : t.mem = s.mem := by
  cases exec_effect h with
  | flagged _ _ hu =>
    rw [hu.unpolled hpoll]
    rfl
  | store _ _ hi => simp [hstore] at hi
  | service k _ ht => exact (service_effect ht).mem
  | transfer | linked | ignored | strict | undefined => rfl

/-- Settles O51: a load or store is one or two data reads, and the write of the cell it stores to. -/
theorem onlyStoresAndPollsChangeMemory : Obligations.OnlyStoresAndPollsChangeMemory := by
  intro i s t a h hstore hpoll
  cases i with
  | ld dr off => cases h; exact memRead_read fun e => hpoll (by simp [readsStatus, e])
  | ldr dr base off => cases h; exact memRead_read fun e => hpoll (by simp [readsStatus, e])
  | ldi dr off =>
    cases h
    have second := memRead_read (s := (s.memRead (s.pcRel9 off)).2) (a := (s.memRead (s.pcRel9 off)).1) (b := a)
      fun e => by
        rw [memRead_par] at e ⊢
        exact hpoll (by simp [readsStatus, e])
    exact second.trans (memRead_read fun e => hpoll (by simp [readsStatus, e]))
  | st sr off => cases h; exact Memory.read_write_ne _ _ fun e => hstore (congrArg some e.symm)
  | str sr base off => cases h; exact Memory.read_write_ne _ _ fun e => hstore (congrArg some e.symm)
  | sti sr off =>
    cases h
    have hwrite := Memory.read_write_ne (s.memRead (s.pcRel9 off)).2.mem ((s.memRead (s.pcRel9 off)).2.reg sr)
      (b := a) fun e => hstore (congrArg some e.symm)
    exact hwrite.trans (memRead_read fun e => hpoll (by simp [readsStatus, e]))
  | _ => rw [exec_mem_of_no_access h rfl rfl]

/-! ### The loader -/

theorem length_imageBytes (ws : List Word) : (imageBytes ws).length = 2 * ws.length := by
  simp [imageBytes, Nat.mul_comm]

/-- The loader reads back the words of an image file (R65). -/
theorem imageWords_imageBytes (ws : List Word) : imageWords (imageBytes ws) = ws := by
  induction ws with
  | nil => rfl
  | cons w rest ih =>
    have hw : w.extractLsb' 8 8 ++ w.extractLsb' 0 8 = w :=
      (BitVec.extractLsb'_append_extractLsb'_eq_extractLsb' (by decide)).trans BitVec.extractLsb'_eq_self
    exact congrArg₂ List.cons hw ih

/-- The loader on an image file with an origin word. -/
theorem loadImage_imageBytes (s : State) (origin : Word) (ws : List Word) :
    s.loadImage (imageBytes (origin :: ws)) =
      if origin.toNat + ws.length ≤ 65536 then .next { s with mem := s.mem.writeWords origin ws }
      else .refused .imageTooLong := by
  have heven : ¬ (imageBytes (origin :: ws)).length % 2 = 1 := by
    rw [length_imageBytes]
    omega
  rw [State.loadImage, if_neg heven, imageWords_imageBytes]

/-- Words written from `a` on change no cell at their distance or farther above `a`, counted modulo 65,536. -/
theorem Memory.read_writeWords_outside {a b : Word} {ws : List Word} (m : Memory) (h : ws.length ≤ (b - a).toNat) :
    (m.writeWords a ws).read b = m.read b := by
  induction ws generalizing m a with
  | nil => rfl
  | cons w rest ih =>
    rw [List.length_cons] at h
    have hne : b ≠ a := by
      rintro rfl
      simp at h
    have hrest : rest.length ≤ (b - (a + 1)).toNat := by bv_omega
    exact (ih (m.write a w) hrest).trans (Memory.read_write_ne m w hne)

/-- Of no more than 65,536 words written from `a` on, each stands at its place. -/
theorem Memory.read_writeWords_inside {a : Word} {ws : List Word} (m : Memory) (hw : ws.length ≤ 65536) {k : Nat}
    (hk : k < ws.length) : (m.writeWords a ws).read (a + BitVec.ofNat 16 k) = ws[k] := by
  induction ws generalizing m a k with
  | nil => cases hk
  | cons w rest ih =>
    rw [List.length_cons] at hw hk
    cases k with
    | zero =>
      have houtside : rest.length ≤ (a - (a + 1)).toNat := by bv_omega
      rw [BitVec.add_zero]
      exact (Memory.read_writeWords_outside (m.write a w) houtside).trans (Memory.read_write_same m a w)
    | succ k =>
      have hnext : a + BitVec.ofNat 16 (k + 1) = a + 1 + BitVec.ofNat 16 k := by
        rw [BitVec.add_assoc, Nat.add_comm k 1, BitVec.ofNat_add]
        rfl
      rw [hnext]
      exact ih (m.write a w) (by omega) (by omega)

/-- Settles O58: an image that fits is written from its origin on; the refusals are the loader's other branches. -/
theorem imageLoadFillsFromTheOrigin : Obligations.ImageLoadFillsFromTheOrigin := by
  refine ⟨fun s origin ws hfit => ?_, fun s origin ws hlong => ?_, fun s image hodd => if_pos hodd, fun s => rfl⟩
  · refine ⟨_, (loadImage_imageBytes s origin ws).trans (if_pos hfit), fun k hk => ?_, fun a ha => ?_, rfl⟩
    · exact Memory.read_writeWords_inside s.mem (by omega) hk
    · exact Memory.read_writeWords_outside s.mem (by bv_omega)
  · exact (loadImage_imageBytes s origin ws).trans (if_neg (by omega))

end Sys2Proof.Machine
end

section
/-!
SUPPORT. The statements of the encoding (30_encoding.md): the bits that are not read (R90), the rows of the opcode table
(R94), the words the spec writes out, and the no-op encodings (R93).
-/

namespace Sys2Proof

open Sys2Proof.Claims

/-! ### Words under a mask -/

/-- Where a word under a mask is `v`, a field whose bits the mask holds reads as in `v`. -/
theorem extractLsb'_of_masked {w mask v : Word} (h : w &&& mask = v) {lo len : Nat}
    (hmask : mask.extractLsb' lo len = BitVec.allOnes len) : w.extractLsb' lo len = v.extractLsb' lo len := by
  rw [← h, BitVec.extractLsb'_and, hmask, BitVec.and_allOnes]

/-- A field whose bits the mask holds keeps its value where only bits outside the mask change. -/
theorem extractLsb'_xor_of_unread {w d mask : Word} (hd : d &&& mask = 0x0000#16) {lo len : Nat}
    (hmask : mask.extractLsb' lo len = BitVec.allOnes len) : (w ^^^ d).extractLsb' lo len = w.extractLsb' lo len := by
  rw [BitVec.extractLsb'_xor, extractLsb'_of_masked hd hmask, BitVec.extractLsb'_zero, BitVec.xor_zero]

/-- A bit that the mask holds keeps its value where only bits outside the mask change. -/
theorem getLsbD_xor_of_unread {w d mask : Word} (hd : d &&& mask = 0x0000#16) {k : Nat}
    (hmask : mask.getLsbD k = true) : (w ^^^ d).getLsbD k = w.getLsbD k := by
  have hbit : d.getLsbD k = false := by simpa [hmask] using congrArg (BitVec.getLsbD · k) hd
  rw [BitVec.getLsbD_xor, hbit, Bool.xor_false]

/-! ### The bits that are not read -/

/-- Every instruction reads its opcode field (R81). -/
theorem readBits_opcode (i : Instr) : (readBits i).extractLsb' 12 4 = BitVec.allOnes 4 := by
  cases i <;> simp [readBits]

/-- TRAP reads its opcode and its vector, whatever the vector selects (R90). -/
theorem readBits_trapOfVector (tv : TrapVectors) (v : BitVec 8) : readBits (trapOfVector tv v) = 0xF0FF#16 := by
  unfold trapOfVector
  rcases tv.serviceOf v with _ | k
  · rfl
  · cases k <;> rfl

/-- Under any two tables, changing bits that the decoded instruction does not read changes nothing: the opcode field,
the mode bit and the fields of the format are read as before (R90). -/
theorem decodeWith_xor_of_unread {m : OpcodeMap} {tv : TrapVectors} {w d : Word}
    (hd : d &&& readBits (decodeWith m tv w) = 0x0000#16) : decodeWith m tv (w ^^^ d) = decodeWith m tv w := by
  have hop : fieldOpcode (w ^^^ d) = fieldOpcode w := extractLsb'_xor_of_unread hd (readBits_opcode _)
  unfold decodeWith at hd ⊢
  rw [hop]
  cases ho : m.opcodeOf (fieldOpcode w) <;> simp only [ho] at hd ⊢
  case trap =>
    rw [readBits_trapOfVector] at hd
    exact congrArg (trapOfVector tv) (extractLsb'_xor_of_unread hd (by decide))
  case add | and =>
    cases hmode : immediateMode w <;> simp only [hmode, Bool.false_eq_true, if_true, if_false, readBits] at hd ⊢
    all_goals
      have hkept : immediateMode (w ^^^ d) = immediateMode w := getLsbD_xor_of_unread hd (by decide)
      simp (disch := decide) [hkept, hmode, fieldDr, fieldSr1, fieldSr2, fieldImm5, extractLsb'_xor_of_unread hd]
  case jsr =>
    cases hmode : longMode w <;> simp only [hmode, Bool.false_eq_true, if_true, if_false, readBits] at hd ⊢
    all_goals
      have hkept : longMode (w ^^^ d) = longMode w := getLsbD_xor_of_unread hd (by decide)
      simp (disch := decide) [hkept, hmode, fieldSr1, fieldPcOffset11, extractLsb'_xor_of_unread hd]
  all_goals
    simp only [readBits] at hd
    simp (disch := decide) [fieldDr, fieldSr1, fieldPcOffset9, fieldOffset6, extractLsb'_xor_of_unread hd]

/-- Settles O3: the decoder under the tables of R85 and R162 is one case. -/
theorem unreadBitsDoNotMatter : Obligations.UnreadBitsDoNotMatter := fun _ _ => decodeWith_xor_of_unread

/-! ### The rows of the opcode table -/

/-- The mask 0xF000 leaves the opcode field. -/
theorem and_opcodeMask (w : Word) : w &&& 0xF000#16 = format12 (fieldOpcode w) 0x000#12 := by
  have hword : fieldOpcode w ++ w.extractLsb' 0 12 = w :=
    (BitVec.extractLsb'_append_extractLsb'_eq_extractLsb' (by decide)).trans BitVec.extractLsb'_eq_self
  calc w &&& 0xF000#16 = (fieldOpcode w ++ w.extractLsb' 0 12) &&& (BitVec.allOnes 4 ++ 0x000#12) := by
        rw [hword]; rfl
    _ = format12 (fieldOpcode w) 0x000#12 := by
        rw [BitVec.and_append, BitVec.and_allOnes, BitVec.and_zero, format12]

/-- The mask 0x00FF leaves the trap vector. -/
theorem and_vectorMask (w : Word) : w &&& 0x00FF#16 = 0x00#8 ++ fieldTrapVect8 w := by
  have hword : w.extractLsb' 8 8 ++ fieldTrapVect8 w = w :=
    (BitVec.extractLsb'_append_extractLsb'_eq_extractLsb' (by decide)).trans BitVec.extractLsb'_eq_self
  calc w &&& 0x00FF#16 = (w.extractLsb' 8 8 ++ fieldTrapVect8 w) &&& (0x00#8 ++ BitVec.allOnes 8) := by
        rw [hword]; rfl
    _ = 0x00#8 ++ fieldTrapVect8 w := by rw [BitVec.and_append, BitVec.and_zero, BitVec.and_allOnes]

/-- The mask 0x0020 leaves the mode bit of ADD and AND (R83). -/
theorem and_immediateMask (w : Word) : w &&& 0x0020#16 = if immediateMode w then 0x0020#16 else 0x0000#16 :=
  BitVec.and_twoPow w 5

/-- The mask 0x0800 leaves the mode bit of JSR and JSRR (R89). -/
theorem and_longMask (w : Word) : w &&& 0x0800#16 = if longMode w then 0x0800#16 else 0x0000#16 :=
  BitVec.and_twoPow w 11

/-- Every word matches the row of the instruction it decodes to: its bits under the mask are the opcode, with the mode
bit or the vector where the row has one. -/
theorem and_rowOf_decode (w : Word) : w &&& (rowOf (decode w)).1 = (rowOf (decode w)).2 := by
  have hop : w &&& 0xF000#16 = format12 (OpcodeMap.lc3.bits (OpcodeMap.lc3.opcodeOf (fieldOpcode w))) 0x000#12 := by
    rw [OpcodeMap.bits_opcodeOf lc3_tables_wf.1, and_opcodeMask]
  have hparts (part : Word) : w &&& (0xF000#16 ||| part) = (w &&& 0xF000#16) ||| (w &&& part) :=
    BitVec.and_or_distrib_left
  unfold decode decodeWith
  cases ho : OpcodeMap.lc3.opcodeOf (fieldOpcode w) <;> rw [ho] at hop
  case trap =>
    dsimp only [trapOfVector]
    rcases hs : TrapVectors.lc3.serviceOf (fieldTrapVect8 w) with _ | k
    · exact hop
    · have hrow := hparts 0x00FF#16
      rw [hop, and_vectorMask, ← TrapVectors.vector_of_serviceOf hs] at hrow
      cases k <;> exact hrow
  case add | and =>
    have hrow := hparts 0x0020#16
    rw [hop, and_immediateMask] at hrow
    cases hmode : immediateMode w <;> rw [hmode] at hrow <;> exact hrow
  case jsr =>
    have hrow := hparts 0x0800#16
    rw [hop, and_longMask] at hrow
    cases hmode : longMode w <;> rw [hmode] at hrow <;> exact hrow
  all_goals exact hop

/-- Two rows agree on the bits that both masks hold: some word may match both. -/
abbrev RowsAgree (row row' : Word × Word) : Prop := row.2 &&& row'.1 = row'.2 &&& row.1

theorem rowsAgree_of_match {w : Word} {row row' : Word × Word} (h : w &&& row.1 = row.2) (h' : w &&& row'.1 = row'.2) :
    RowsAgree row row' := by
  rw [RowsAgree, ← h, ← h', BitVec.and_assoc, BitVec.and_assoc, BitVec.and_comm row.1]

/-- No two rows of the table but for the generic TRAP row agree. -/
theorem eq_of_rowsAgree {row row' : Word × Word} (h : row ∈ specificRows) (h' : row' ∈ specificRows)
    (ha : RowsAgree row row') : row = row' := by
  have hdisjoint : specificRows.Pairwise fun r r' => ¬ RowsAgree r r' := by decide
  have hsymm : Std.Symm fun r r' => ¬ RowsAgree r r' := ⟨fun _ _ hn e => hn e.symm⟩
  exact not_imp_not.1 (hdisjoint.forall h h') ha

/-- The rows that agree with the generic TRAP row are those of the service routines (R162). -/
theorem eq_serviceRow_of_rowsAgree {row : Word × Word} {v : BitVec 8} (h : row ∈ specificRows)
    (ha : RowsAgree row (rowOf (.trap v))) : ∃ k : Service, row = rowOf k.instr := by
  have hrows : specificRows.filter (RowsAgree · (0xF000#16, 0xF000#16)) = Service.all.map (rowOf ·.instr) := by decide
  have hrow : row ∈ Service.all.map (rowOf ·.instr) := hrows ▸ List.mem_filter.2 ⟨h, decide_eq_true ha⟩
  obtain ⟨k, -, hk⟩ := List.mem_map.1 hrow
  exact ⟨k, hk.symm⟩

/-- The row of an instruction is in the table, if it is not the generic TRAP row. -/
theorem rowOf_mem_specificRows {i : Instr} (h : ∀ v, i ≠ .trap v) : rowOf i ∈ specificRows := by
  cases i
  case trap v => exact absurd rfl (h v)
  all_goals simp [rowOf, specificRows]

/-- A word that matches the row of a service routine decodes to its instruction (R92, R162). -/
theorem decode_of_serviceRow {w : Word} {k : Service} (h : w &&& (rowOf k.instr).1 = (rowOf k.instr).2) :
    decode w = k.instr := by
  have hop : fieldOpcode w = OpcodeMap.lc3.bits .trap := by
    cases k <;> exact (extractLsb'_of_masked h (by decide)).trans (by decide)
  have hv : fieldTrapVect8 w = TrapVectors.lc3.vector k := by
    cases k <;> exact (extractLsb'_of_masked h (by decide)).trans (by decide)
  rw [decode, decodeWith, hop, OpcodeMap.opcodeOf_bits lc3_tables_wf.1, hv]
  exact trapOfVector_vector lc3_tables_wf.2 k

/-- Settles O2: a second row that the word matches agrees with the row of its decoding, and no two rows agree but a
service routine's and the generic TRAP row, where the word decodes to the routine's instruction. -/
theorem everyWordSelectsOneRow : Obligations.EveryWordSelectsOneRow := by
  refine fun w => ⟨and_rowOf_decode w, fun row hrow hmatch => ?_⟩
  have hagree := rowsAgree_of_match hmatch (and_rowOf_decode w)
  by_cases hgeneric : ∃ v, decode w = .trap v
  · obtain ⟨v, hv⟩ := hgeneric
    rw [hv] at hagree
    obtain ⟨k, rfl⟩ := eq_serviceRow_of_rowsAgree hrow hagree
    rw [decode_of_serviceRow hmatch]
  · exact eq_of_rowsAgree hrow (rowOf_mem_specificRows (not_exists.1 hgeneric)) hagree

/-! ### The words the spec writes out -/

/-- Settles O4: 33 words, each decoded. -/
theorem wordsOfTheSpecDecode : Obligations.WordsOfTheSpecDecode := by
  unfold Obligations.WordsOfTheSpecDecode
  decide

end Sys2Proof

namespace Sys2Proof.Machine

open Sys2Proof.Claims

/-! ### The no-op encodings -/

/-- A field above all the set bits of a word is zero. -/
theorem extractLsb'_of_lt {w : Word} {lo len : Nat} (h : w.toNat < 2 ^ lo) : w.extractLsb' lo len = 0#len := by
  apply BitVec.eq_of_toNat_eq
  simp [BitVec.extractLsb'_toNat, Nat.shiftRight_eq_div_pow, Nat.div_eq_of_lt h]

/-- Below 0x0200 the opcode field is BR's and the condition field is empty (R93). -/
theorem decode_of_lt {w : Word} (h : w.toNat < 0x0200) : decode w = .br 0b000#3 (fieldPcOffset9 w) := by
  have hop : fieldOpcode w = OpcodeMap.lc3.bits .br := extractLsb'_of_lt (by omega)
  have hdr : fieldDr w = 0b000#3 := extractLsb'_of_lt h
  rw [decode, decodeWith, hop, OpcodeMap.opcodeOf_bits lc3_tables_wf.1, hdr]

/-- BR with an empty condition field is never taken (R93, R131). -/
theorem execBr_never (off : BitVec 9) (s : State) : execBr 0b000#3 off s = .next s := by
  have hnot : branchTaken 0b000#3 s.cond = false := by cases s.cond <;> rfl
  simp [execBr, hnot]

/-- A vector is unrecognized exactly if it selects no service routine (R92). -/
theorem unrecognized_iff {s : State} {v : BitVec 8} : Unrecognized s v ↔ s.par.trapVec.serviceOf v = none := by
  rw [TrapVectors.serviceOf_eq_none]
  constructor
  · rintro ⟨hgetc, hout, hputs, hin, hputsp, hhalt⟩ k
    cases k
    exacts [hgetc.symm, hout.symm, hputs.symm, hin.symm, hputsp.symm, hhalt.symm]
  · intro h
    exact ⟨(h .getc).symm, (h .out).symm, (h .puts).symm, (h .input).symm, (h .putsp).symm, (h .halt).symm⟩

/-- TRAP with an unrecognized vector runs no routine (R160, R172). -/
theorem execTrap_of_unrecognized {s : State} {v : BitVec 8} (h : Unrecognized s v) : execTrap v s = s.trapUnknown := by
  rw [execTrap, unrecognized_iff.1 h]

/-- Settles O10: BR never is not taken, and an unrecognized vector has no effect but the link and the abort. -/
theorem noOpEncodingsDoNothing : Obligations.NoOpEncodingsDoNothing := by
  refine ⟨fun w s hw => ?_, fun v s hv hstrict hlink => ?_⟩
  · rw [decode_of_lt hw]
    exact execBr_never _ s
  · refine (execTrap_of_unrecognized hv).trans ?_
    simp [State.trapUnknown, hstrict, trapLink_of_not_links hlink]

end Sys2Proof.Machine
end

section
/-!
SUPPORT. The statements of the dispatch (40_dispatch.md): the core's turn as one instruction, and as the end of a wait.
-/

namespace Sys2Proof.Machine

open Sys2Proof.Claims

/-! ### The core's turn -/

/-- Where the host has no move, a step of a running machine is the core's turn, then used up. -/
theorem step_of_coreTurn {s : State} (hr : s.run = .running) (hm : s.hostMove = none) :
    step s = onNext State.endTurn s.coreTurn := by
  rw [step, if_pos hr, hm]
  rcases s.coreTurn with t | r | r <;> rfl

/-- With an empty script the host has no move. -/
theorem hostMove_of_nil {s : State} (h : s.script = []) : s.hostMove = none := by
  rw [State.hostMove, h]

/-- Using up the turn changes nothing where every next state has an empty script. -/
theorem onNext_endTurn {o : StepOutcome} (h : ∀ t, o = .next t → t.script = []) : onNext State.endTurn o = o := by
  cases o with
  | next t => rw [onNext, endTurn_of_nil (h t rfl)]
  | fault r => rfl
  | refused r => rfl

/-! ### No instruction touches the host's script -/

theorem DataRead.script {polls : Bool} {s u : State} (h : DataRead polls s u) : u.script = s.script := by rw [h.frame]

@[simp] theorem consumeGetc_script (s : State) : s.consumeGetc.script = s.script := by
  rcases consumeGetc_cases s with ⟨b, rest, -, e⟩ | ⟨-, -, e⟩ | ⟨-, -, e⟩ <;> rw [e] <;> rfl

@[simp] theorem consumeIn_script (s : State) : s.consumeIn.script = s.script := by
  cases hs : s.stopsBeforeEcho with
  | false => rcases consumeIn_cases s hs with ⟨b, rest, -, e⟩ | ⟨-, -, e⟩ | ⟨-, -, e⟩ <;> rw [e] <;> rfl
  | true => rcases consumeIn_stopped s hs with ⟨b, rest, -, e⟩ | ⟨-, -, e⟩ | ⟨-, -, e⟩ <;> rw [e] <;> rfl

theorem putString_script {bytes : Word → List Byte} {s t : State} (h : s.putString bytes = .next t) :
    t.script = s.script := by
  rcases putString_cases s bytes with ⟨-, -, e⟩ | ⟨-, e⟩ | ⟨-, e⟩ | ⟨-, e⟩ <;> rw [e] at h <;> cases h <;> rfl

theorem service_script {k : Service} {s t : State} (h : s.service k = .next t) : t.script = s.script := by
  cases k with
  | getc => cases h; exact consumeGetc_script s
  | out => cases h; rfl
  | puts => exact putString_script h
  | input =>
    rcases putThen_next_cases h with ⟨n, rfl⟩ | rfl
    · rfl
    · rw [consumeIn_script, put_script]
  | putsp => exact putString_script h
  | halt => rcases serviceHalt_cases s with ⟨-, -, e⟩ | e <;> cases e.symm.trans h <;> rfl

/-- The script is the host's: no instruction changes it (log entry 8). -/
theorem exec_script {i : Instr} {s t : State} (h : exec i s = .next t) : t.script = s.script := by
  cases exec_effect h with
  | flagged _ _ hu | store _ _ _ hu => exact hu.script
  | service _ _ ht => exact (service_script ht).trans (trapLink_script s)
  | transfer | linked | ignored | strict | undefined => rfl

/-- The turn of a core that does not wait: the decoded instruction on the state the read leaves, `pc` advanced. -/
theorem coreTurn_of_idle {s : State} (h : s.wait = .idle) : s.coreTurn =
    exec (s.decode (s.memRead s.pc).1) ((s.memRead s.pc).2.setPc (s.pc + 1)) := by
  rw [State.coreTurn, h, fetch_eq]

/-- Settles O6: the step is the core's turn, and with an empty script there is no turn to use up. -/
theorem stepRunsTheDecodedInstruction : Obligations.StepRunsTheDecodedInstruction := by
  refine ⟨fun s hr hw hm => ?_, fun s hr hw hs => ?_, fun s ⟨hops, htraps⟩ => ?_⟩
  · rw [step_of_coreTurn hr hm, coreTurn_of_idle hw]
  · rw [step_of_coreTurn hr (hostMove_of_nil hs), coreTurn_of_idle hw]
    refine onNext_endTurn fun t ht => ?_
    rw [exec_script ht, setPc_script, memRead_script, hs]
  · funext w
    rw [State.decode, hops, htraps, decode]

/-! ### The wait for input -/

/-- What a wait that ends with the character `v` leaves: R0 and, for IN, the echo (R163, R167). -/
def State.endWait (s : State) (v : Word) : State :=
  { (s.put (if s.wait = .input then [lowByte v] else [])).setReg 0#3 v with wait := .idle }

theorem put_nil (s : State) : s.put [] = s := by rw [State.put, List.append_nil]

/-- A waiting core with a character to take ends its wait, if no stop signal falls before the echo. -/
theorem coreTurn_of_consume {s u : State} {v : Word} (hw : s.wait ≠ .idle) (hs : s.stopsBeforeEcho = false)
    (hc : s.consume = some (v, u)) : s.coreTurn = .next (u.endWait v) := by
  have hu : u.wait = s.wait := by rw [consume_some hc]
  rw [State.coreTurn]
  cases h : s.wait with
  | idle => exact absurd h hw
  | getc => simp [State.consumeGetc, State.endWait, put_nil, hc, hu, h]
  | input => simp [State.consumeIn, State.endWait, hc, hs, hu, h]

/-- The turn of a core whose wait only the host can end changes nothing (R114). -/
theorem coreTurn_of_blocked {s : State} (h : s.blocked) : s.coreTurn = .next s := by
  obtain ⟨-, hw, hq, hc⟩ := h
  have hnone : s.consume = none := by rw [State.consume, hq, hc]
  rw [State.coreTurn]
  cases h : s.wait with
  | idle => exact absurd h hw
  | getc => simp [State.consumeGetc, hnone, ← h]
  | input => simp [State.consumeIn, hnone, ← h]

/-- With an empty script, a step that finds a character ends the wait. -/
theorem step_of_consume {s u : State} {v : Word} (hr : s.run = .running) (hw : s.wait ≠ .idle) (hs : s.script = [])
    (hc : s.consume = some (v, u)) : step s = .next (u.endWait v) := by
  have hstop : s.stopsBeforeEcho = false := by rw [State.stopsBeforeEcho, hs]
  have hu : (u.endWait v).script = [] := by rw [consume_some hc]; exact hs
  rw [step_of_coreTurn hr (hostMove_of_nil hs), coreTurn_of_consume hw hstop hc, onNext, endTurn_of_nil hu]

/-- Ending a wait writes R0, the output and the wait alone, whatever the host has made of the input. -/
theorem endWait_waitFrame (s : State) (q : List Byte) (c : Bool) (v : Word) :
    WaitFrame s (State.endWait { s with inq := q, closed := c, script := [] } v) :=
  ⟨rfl, rfl, fun _ hr => setReg_reg_ne _ _ (List.ne_of_not_mem_cons hr), fun _ => rfl,
    ⟨rfl, rfl, rfl⟩, rfl, rfl, rfl, rfl⟩

/-- After a move of the host that makes the character `v` the next and last, the step after it ends the wait with
`v`. -/
theorem blocked_goes_on {s : State} {q : List Byte} {c : Bool} {v : Word} (hb : s.blocked)
    (hmove : step s = .next { s with inq := q, closed := c, script := [] })
    (hc : State.consume { s with inq := q, closed := c, script := [] } =
      some (v, { s with inq := [], closed := c, script := [] })) :
    ∃ t u, step s = .next t ∧ step t = .next u ∧ u.reg 0#3 = v ∧ u.inq = [] ∧ u.wait = .idle ∧
      u.out = s.out ++ (if s.wait = .input then [lowByte v] else []) ∧ u.closed = c ∧ WaitFrame s u := by
  obtain ⟨hr, hw, -, -⟩ := hb
  exact ⟨_, _, hmove, step_of_consume hr hw rfl hc, setReg_reg_same _ _ _, rfl, rfl, rfl, rfl,
    endWait_waitFrame s [] c v⟩

/-- Settles O39: the blocked turn changes nothing, and each of the two moves leaves one character to take. -/
theorem waitingCoreGoesOnWithInput : Obligations.WaitingCoreGoesOnWithInput := by
  refine ⟨fun s hb hs => ?_, fun s b hb hs => ?_, fun s hb hs => ?_⟩
  · rw [step_of_coreTurn hb.1 (hostMove_of_nil hs), coreTurn_of_blocked hb, onNext, endTurn_of_nil hs]
  · have ⟨hr, _, hq, hc⟩ := hb
    obtain ⟨happend, -, -, -⟩ := hostMovesChangeOnlyTheirPart s [] hr
    have hmove : step s = .next { s with inq := [b], script := [] } := by rw [happend b hs hc, hq, List.nil_append]
    have h := blocked_goes_on (v := zext16 b) hb hmove rfl
    rwa [lowByte_zext16, zext16_eq_append] at h
  · have ⟨hr, _, hq, _⟩ := hb
    obtain ⟨-, -, hclose, -⟩ := hostMovesChangeOnlyTheirPart s [] hr
    have hmove : step s = .next { s with inq := [], closed := true, script := [] } := by rw [hclose hs, ← hq]
    exact blocked_goes_on hb hmove rfl

end Sys2Proof.Machine
end

section
/-!
SUPPORT. The statements of the operate instructions (41_operate.md): the decoding of ADD, AND and NOT, and their one
effect, the flag-setting write of R30.
-/

namespace Sys2Proof.Machine

open Sys2Proof.Claims

/-! ### The decoding of one opcode -/

/-- Under the table of R85, a word whose opcode field holds an opcode's value selects that opcode. -/
theorem lc3_opcodeOf_of_field {w : Word} {o : Opcode} (h : fieldOpcode w = OpcodeMap.lc3.bits o) :
    OpcodeMap.lc3.opcodeOf (fieldOpcode w) = o := by
  rw [h, OpcodeMap.opcodeOf_bits lc3_tables_wf.1]

theorem decode_of_add {w : Word} (h : fieldOpcode w = 0x1#4) :
    decode w = if immediateMode w then .addImm (fieldDr w) (fieldSr1 w) (fieldImm5 w)
      else .addReg (fieldDr w) (fieldSr1 w) (fieldSr2 w) := by
  rw [decode, decodeWith, lc3_opcodeOf_of_field (o := .add) h]

theorem decode_of_and {w : Word} (h : fieldOpcode w = 0x5#4) :
    decode w = if immediateMode w then .andImm (fieldDr w) (fieldSr1 w) (fieldImm5 w)
      else .andReg (fieldDr w) (fieldSr1 w) (fieldSr2 w) := by
  rw [decode, decodeWith, lc3_opcodeOf_of_field (o := .and) h]

theorem decode_of_not {w : Word} (h : fieldOpcode w = 0x9#4) : decode w = .not (fieldDr w) (fieldSr1 w) := by
  rw [decode, decodeWith, lc3_opcodeOf_of_field (o := .not) h]

/-! ### The flag-setting write -/

@[simp] theorem setRegCond_reg_same (s : State) (dr : RegIdx) (v : Word) : (s.setRegCond dr v).reg dr = v := by
  rw [setRegCond_reg, if_pos rfl]

/-- The end of every flag-setting instruction writes DR and the condition code of the value, and nothing else (R30). -/
theorem setRegCond_flaggedWrite (s : State) (dr : RegIdx) (v : Word) : FlaggedWrite s (s.setRegCond dr v) dr v := by
  refine ⟨setRegCond_reg_same s dr v, ?flags, rfl, ?regs, fun _ => rfl, ⟨rfl, rfl, rfl⟩, ⟨rfl, rfl⟩,
    ⟨rfl, rfl, rfl⟩, rfl, rfl, rfl⟩
  case flags =>
    rw [setRegCond_cond]
    exact flagsOf_condOf v
  case regs =>
    intro r hr
    rw [setRegCond_reg, if_neg (List.ne_of_not_mem_cons hr)]

/-! ### The obligations -/

/-- Settles O16: bit 5 selects the mode, and each mode is one flag-setting write. -/
theorem addResult : Obligations.AddResult := by
  refine ⟨fun w hop hmode => ?_, fun w hop hmode => ?_, fun dr sr1 sr2 s => ?_, fun dr sr1 imm5 s => ?_⟩
  · exact (decode_of_add hop).trans (if_neg (Bool.eq_false_iff.1 hmode))
  · exact (decode_of_add hop).trans (if_pos hmode)
  · exact ⟨_, rfl, setRegCond_flaggedWrite s dr _⟩
  · exact ⟨_, rfl, setRegCond_flaggedWrite s dr _⟩

/-- Settles O17: bit 5 selects the mode, and each mode is one flag-setting write. -/
theorem andResult : Obligations.AndResult := by
  refine ⟨fun w hop hmode => ?_, fun w hop hmode => ?_, fun dr sr1 sr2 s => ?_, fun dr sr1 imm5 s => ?_⟩
  · exact (decode_of_and hop).trans (if_neg (Bool.eq_false_iff.1 hmode))
  · exact (decode_of_and hop).trans (if_pos hmode)
  · exact ⟨_, rfl, setRegCond_flaggedWrite s dr _⟩
  · exact ⟨_, rfl, setRegCond_flaggedWrite s dr _⟩

/-- Settles O18: the decoder reads no bit below the source register, and NOT is one flag-setting write. -/
theorem notResult : Obligations.NotResult :=
  ⟨fun _ => decode_of_not, fun dr _ s => ⟨_, rfl, setRegCond_flaggedWrite s dr _⟩⟩

/-- Settles O19: the complement plus one is the two's-complement negation. -/
theorem notThenAddOneNegates : Obligations.NotThenAddOneNegates := by
  intro dr sr s
  refine ⟨_, _, rfl, rfl, ?_⟩
  have hneg : ~~~ s.reg sr + sext5 1#5 = - s.reg sr := (BitVec.neg_eq_not_add _).symm
  rw [setRegCond_reg_same, setRegCond_reg_same, hneg, BitVec.toNat_neg]

end Sys2Proof.Machine
end

section
/-!
SUPPORT. The statements of the control transfers (42_control.md): the decoding of BR, JMP, JSR and JSRR, and their
effect, a new `pc` after, for JSR and JSRR, the link.
-/

namespace Sys2Proof.Machine

open Sys2Proof.Claims

/-! ### The decoding of one opcode -/

theorem decode_of_br {w : Word} (h : fieldOpcode w = 0x0#4) : decode w = .br (fieldDr w) (fieldPcOffset9 w) := by
  rw [decode, decodeWith, lc3_opcodeOf_of_field (o := .br) h]

theorem decode_of_jmp {w : Word} (h : fieldOpcode w = 0xC#4) : decode w = .jmp (fieldSr1 w) := by
  rw [decode, decodeWith, lc3_opcodeOf_of_field (o := .jmp) h]

theorem decode_of_jsr {w : Word} (h : fieldOpcode w = 0x4#4) :
    decode w = if longMode w then .jsr (fieldPcOffset11 w) else .jsrr (fieldSr1 w) := by
  rw [decode, decodeWith, lc3_opcodeOf_of_field (o := .jsr) h]

/-! ### The two forms of a transfer -/

/-- A new `pc` alone (R130, R132). -/
theorem setPc_transfer (s : State) (target : Word) : Transfer s (s.setPc target) target [] :=
  ⟨rfl, rfl, fun _ _ => rfl, fun _ => rfl, ⟨rfl, rfl, rfl⟩, ⟨rfl, rfl⟩, ⟨rfl, rfl, rfl⟩, rfl, rfl, rfl⟩

/-- The link and then a new `pc` (R133, R134). -/
theorem link_setPc_transfer (s : State) (target : Word) : Transfer s (s.link.setPc target) target [7#3] := by
  refine ⟨rfl, rfl, ?regs, fun _ => rfl, ⟨rfl, rfl, rfl⟩, ⟨rfl, rfl⟩, ⟨rfl, rfl, rfl⟩, rfl, rfl, rfl⟩
  intro r hr
  rw [setPc_reg, link_reg, if_neg (List.ne_of_not_mem_cons hr)]

/-- The link leaves the return address in R7. -/
@[simp] theorem link_reg_seven (s : State) : s.link.reg 7#3 = s.pc := by rw [link_reg, if_pos rfl]

/-! ### The target of each transfer -/

/-- The model's code of a condition is that of R31. -/
theorem nzpOf_eq_conditionCode (c : Cond) : nzpOf c = conditionCode c := by cases c <;> rfl

/-- The test of R130 agrees with the table of R131, on each condition code for all eight fields. -/
theorem and_conditionCode_ne_zero_iff (nzp : BitVec 3) (c : Cond) :
    nzp &&& conditionCode c ≠ 0b000#3 ↔ c ∈ takenOn nzp := by
  revert nzp
  cases c <;> decide

/-- A BR that is not taken goes on at the incremented `pc` (R130). -/
theorem execBr_eq_setPc (nzp : BitVec 3) (off : BitVec 9) (s : State) : execBr nzp off s =
    .next (s.setPc (if nzp &&& conditionCode s.cond = 0b000#3 then s.pc else s.pcRel9 off)) := by
  by_cases h : nzp &&& conditionCode s.cond = 0b000#3
  · have hstay : s.setPc s.pc = s := rfl
    simp [execBr, branchTaken, nzpOf_eq_conditionCode, h, hstay]
  · simp [execBr, branchTaken, nzpOf_eq_conditionCode, h]

/-- The link reaches the base register read after it only where that is R7 (R134). -/
theorem execJsrr_eq_setPc (base : RegIdx) (s : State) : execJsrr base s =
    .next (s.link.setPc (if base = 7#3 ∧ s.par.jsrrBaseRead = .afterLink then s.pc else s.reg base)) := by
  cases horder : s.par.jsrrBaseRead with
  | afterLink => simp [execJsrr, horder, link_reg]
  | beforeLink => simp [execJsrr, horder]

/-! ### The obligations -/

/-- Settles O20: BR is a new `pc`, the old one where its test fails, and the test is the table's. -/
theorem branchResult : Obligations.BranchResult :=
  ⟨fun _ => decode_of_br, fun nzp off s => ⟨_, execBr_eq_setPc nzp off s, setPc_transfer s _⟩,
    and_conditionCode_ne_zero_iff⟩

/-- Settles O21: JMP is a new `pc` alone. -/
theorem jumpResult : Obligations.JumpResult :=
  ⟨fun _ => decode_of_jmp, fun _ s => ⟨_, rfl, setPc_transfer s _⟩⟩

/-- Settles O22: bit 11 selects JSR, which is the link and a new `pc`. -/
theorem jsrResult : Obligations.JsrResult := by
  refine ⟨fun w hop hmode => ?_, fun off s => ?_⟩
  · exact (decode_of_jsr hop).trans (if_pos hmode)
  · exact ⟨_, rfl, link_reg_seven s, link_setPc_transfer s _⟩

/-- Settles O23: bit 11 selects JSRR, which is the link and a new `pc` in either order. -/
theorem jsrrResult : Obligations.JsrrResult := by
  refine ⟨fun w hop hmode => ?_, fun base s => ?_⟩
  · exact (decode_of_jsr hop).trans (if_neg (Bool.eq_false_iff.1 hmode))
  · exact ⟨_, execJsrr_eq_setPc base s, link_reg_seven s, link_setPc_transfer s _⟩

end Sys2Proof.Machine
end

section
/-!
SUPPORT. The statements of the loads (43_load.md): the decoding of LD, LDI, LDR and LEA, the load of one cell, and
the load of the keyboard-status cell.
-/

namespace Sys2Proof.Machine

open Sys2Proof.Claims

/-! ### The decoding of one opcode -/

theorem decode_of_ld {w : Word} (h : fieldOpcode w = 0x2#4) : decode w = .ld (fieldDr w) (fieldPcOffset9 w) := by
  rw [decode, decodeWith, lc3_opcodeOf_of_field (o := .ld) h]

theorem decode_of_ldr {w : Word} (h : fieldOpcode w = 0x6#4) :
    decode w = .ldr (fieldDr w) (fieldSr1 w) (fieldOffset6 w) := by
  rw [decode, decodeWith, lc3_opcodeOf_of_field (o := .ldr) h]

theorem decode_of_ldi {w : Word} (h : fieldOpcode w = 0xA#4) : decode w = .ldi (fieldDr w) (fieldPcOffset9 w) := by
  rw [decode, decodeWith, lc3_opcodeOf_of_field (o := .ldi) h]

theorem decode_of_lea {w : Word} (h : fieldOpcode w = 0xE#4) : decode w = .lea (fieldDr w) (fieldPcOffset9 w) := by
  rw [decode, decodeWith, lc3_opcodeOf_of_field (o := .lea) h]

/-! ### The load of one cell -/

theorem DataRead.controlKept {polls : Bool} {s u : State} (h : DataRead polls s u) : ControlKept s u := by
  refine ⟨h.runKept, ?_⟩
  rw [h.frame]
  exact ⟨rfl, rfl, rfl⟩

/-- A load after data reads that lead from `s` to `u` is a flag-setting write of the value `MemRead` answers, and of
`s` it leaves everything but DR, the condition code, memory and the input (R140 to R142). -/
theorem DataRead.loadFrom_result {polls : Bool} {s u : State} (h : DataRead polls s u) (dr : RegIdx) (a : Word) :
    FlaggedWrite (u.memRead a).2 (u.loadFrom dr a) dr (u.memRead a).1 ∧ (u.loadFrom dr a).pc = s.pc ∧
      RegsKept [dr] s (u.loadFrom dr a) ∧ OutputKept s (u.loadFrom dr a) ∧ ControlKept s (u.loadFrom dr a) := by
  have reads := h.trans (memRead_dataRead u a)
  have hwrite : FlaggedWrite (u.memRead a).2 (u.loadFrom dr a) dr (u.memRead a).1 := setRegCond_flaggedWrite _ dr _
  have ⟨_, _, _, hregs, _⟩ := hwrite
  exact ⟨hwrite, reads.pc, fun r hr => (hregs r hr).trans (reads.reg r), reads.outputKept, reads.controlKept⟩

/-- LDI is a load through the pointer that its first read answers (R141). -/
theorem execLdi_of_memRead {s u : State} {off : BitVec 9} {p : Word} (h : s.memRead (s.pcRel9 off) = (p, u))
    (dr : RegIdx) : execLdi dr off s = .next (u.loadFrom dr p) := by
  rw [execLdi, h]

/-! ### The load of the keyboard-status cell -/

/-- A load of the keyboard-status cell leaves in DR the status that the poll answers, with its condition code. -/
theorem StatusRead.loadFrom {p : Params} {s : State} {status data : Word} {rest : List Byte}
    (h : StatusRead p s status data rest) (dr : RegIdx) :
    (s.loadFrom dr p.kbsrAddr).reg dr = status ∧ (s.loadFrom dr p.kbsrAddr).cond = condOf status ∧
      (s.loadFrom dr p.kbsrAddr).mem.read p.kbdrAddr = data ∧ (s.loadFrom dr p.kbsrAddr).inq = rest := by
  simp [State.loadFrom, h.answer, h.dataCell, h.input]

/-- LD at the keyboard-status cell, and LDI through a plain pointer to it, are one load of that cell. -/
theorem exec_eq_loadFrom_statusCell {dr : RegIdx} {off : BitVec 9} {s : State} {i : Instr}
    (h : (i = .ld dr off ∧ s.pcRel9 off = s.par.kbsrAddr) ∨
      (i = .ldi dr off ∧ s.pcRel9 off ≠ s.par.kbsrAddr ∧ s.mem.read (s.pcRel9 off) = s.par.kbsrAddr)) :
    exec i s = .next (s.loadFrom dr s.par.kbsrAddr) := by
  rcases h with ⟨rfl, ha⟩ | ⟨rfl, ha, hp⟩
  · rw [exec, execLd, ha]
  · have hread : s.memRead (s.pcRel9 off) = (s.par.kbsrAddr, s) := by rw [memRead_of_ne ha, hp]
    exact execLdi_of_memRead hread dr

/-! ### The obligations -/

/-- Settles O24: LD and LDR are one load, with no data read before it. -/
theorem directLoadResult : Obligations.DirectLoadResult :=
  ⟨fun _ => decode_of_ld, fun _ => decode_of_ldr,
    fun dr _ s => ⟨_, rfl, (DataRead.refl false s).loadFrom_result dr _⟩,
    fun dr _ _ s => ⟨_, rfl, (DataRead.refl false s).loadFrom_result dr _⟩⟩

/-- Settles O25: LDI is one load, after the data read of its pointer. -/
theorem indirectLoadResult : Obligations.IndirectLoadResult := by
  refine ⟨fun _ => decode_of_ldi, fun dr off s u p hpointer => ?_⟩
  have hu := memRead_dataRead s (s.pc + off.signExtend 16)
  rw [hpointer] at hu
  exact ⟨_, execLdi_of_memRead hpointer dr, hu.loadFrom_result dr p⟩

/-- Settles O27: both instructions are one load of the keyboard-status cell, so a pending byte gives 0x8000 and N,
and none gives 0x0000 and Z. -/
theorem loadOfTheStatusCellPolls : Obligations.LoadOfTheStatusCellPolls := by
  intro dr off s i hk hi
  refine ⟨_, exec_eq_loadFrom_statusCell hi, fun b rest hq => ?_, fun hq hc => ?_⟩
  · exact (statusRead_of_pending rfl hk hq).loadFrom dr
  · exact (statusRead_of_empty rfl hk hq hc).loadFrom dr

/-- Settles O26: LEA is a flag-setting write of the address alone. -/
theorem leaResult : Obligations.LeaResult :=
  ⟨fun _ => decode_of_lea, fun dr _ s => ⟨_, rfl, setRegCond_flaggedWrite s dr _⟩⟩

end Sys2Proof.Machine
end

section
/-!
SUPPORT. The statements of the stores (44_store.md): the decoding of ST, STI and STR, and their one effect, the write
of one cell.
-/

namespace Sys2Proof.Machine

open Sys2Proof.Claims

/-! ### The decoding of one opcode -/

theorem decode_of_st {w : Word} (h : fieldOpcode w = 0x3#4) : decode w = .st (fieldDr w) (fieldPcOffset9 w) := by
  rw [decode, decodeWith, lc3_opcodeOf_of_field (o := .st) h]

theorem decode_of_str {w : Word} (h : fieldOpcode w = 0x7#4) :
    decode w = .str (fieldDr w) (fieldSr1 w) (fieldOffset6 w) := by
  rw [decode, decodeWith, lc3_opcodeOf_of_field (o := .str) h]

theorem decode_of_sti {w : Word} (h : fieldOpcode w = 0xB#4) : decode w = .sti (fieldDr w) (fieldPcOffset9 w) := by
  rw [decode, decodeWith, lc3_opcodeOf_of_field (o := .sti) h]

/-! ### The write of one cell -/

/-- `MemWrite` sets its cell, device cells included, and changes nothing else (R58, R153). -/
theorem memWrite_cellWrite (s : State) (a v : Word) : CellWrite s (s.memWrite a v) a v :=
  ⟨Memory.read_write_same s.mem a v, fun _ hb => Memory.read_write_ne s.mem v hb, rfl, rfl, fun _ _ => rfl,
    ⟨rfl, rfl, rfl⟩, ⟨rfl, rfl⟩, ⟨rfl, rfl, rfl⟩, rfl, rfl, rfl⟩

/-- STI writes through the pointer that its read answers; that read cannot change SR (R151). -/
theorem execSti_of_memRead {s u : State} {off : BitVec 9} {p : Word} (h : s.memRead (s.pcRel9 off) = (p, u))
    (sr : RegIdx) : execSti sr off s = .next (u.memWrite p (s.reg sr)) := by
  rw [execSti, memRead_reg, h]

/-- A write after data reads that lead from `s` to `u` leaves of `s` everything but memory and the input (R153). -/
theorem DataRead.memWrite_frame {polls : Bool} {s u : State} (h : DataRead polls s u) (a v : Word) :
    (u.memWrite a v).pc = s.pc ∧ (u.memWrite a v).cond = s.cond ∧ RegsKept [] s (u.memWrite a v) ∧
      OutputKept s (u.memWrite a v) ∧ ControlKept s (u.memWrite a v) :=
  ⟨h.pc, h.cond, fun r _ => h.reg r, h.outputKept, h.controlKept⟩

/-! ### The obligations -/

/-- Settles O28: ST and STR are one write of the source register. -/
theorem directStoreResult : Obligations.DirectStoreResult :=
  ⟨fun _ => decode_of_st, fun _ => decode_of_str, fun sr _ s => ⟨_, rfl, memWrite_cellWrite s _ (s.reg sr)⟩,
    fun sr _ _ s => ⟨_, rfl, memWrite_cellWrite s _ (s.reg sr)⟩⟩

/-- Settles O29: STI is one write of the source register, after the data read of its pointer. -/
theorem indirectStoreResult : Obligations.IndirectStoreResult := by
  refine ⟨fun _ => decode_of_sti, fun sr off s u p hpointer => ?_⟩
  have hu := memRead_dataRead s (s.pc + off.signExtend 16)
  rw [hpointer] at hu
  exact ⟨_, execSti_of_memRead hpointer sr, memWrite_cellWrite u p (s.reg sr), hu.memWrite_frame p (s.reg sr)⟩

end Sys2Proof.Machine
end

section
/-!
SUPPORT. The statements of TRAP and the service routines (45_trap.md): the dispatch by the vector, the frame every
routine keeps, the puts with and without a stop signal among them, the walk over a string, and the six routines.
-/

namespace Sys2Proof.Machine

open Sys2Proof.Claims

/-! ### The dispatch by the vector -/

theorem decode_of_trap {w : Word} (h : fieldOpcode w = 0xF#4) :
    decode w = trapOfVector TrapVectors.lc3 (fieldTrapVect8 w) := by
  rw [decode, decodeWith, lc3_opcodeOf_of_field (o := .trap) h]

/-- The instruction of a service's row links and runs the service's routine (R160). -/
theorem exec_service (k : Service) (s : State) : exec k.instr s = s.trapLink.service k := by cases k <;> rfl

/-- The vectors of R162 are the six from 0x20 to 0x25. -/
theorem lc3_serviceOf_eq_none_iff {v : BitVec 8} :
    TrapVectors.lc3.serviceOf v = none ↔ ¬ (0x20#8 ≤ v ∧ v ≤ 0x25#8) := by
  rw [TrapVectors.serviceOf_eq_none]
  constructor
  · intro h hv
    have hne : 0x20#8 ≠ v ∧ 0x21#8 ≠ v ∧ 0x22#8 ≠ v ∧ 0x23#8 ≠ v ∧ 0x24#8 ≠ v ∧ 0x25#8 ≠ v :=
      ⟨h .getc, h .out, h .puts, h .input, h .putsp, h .halt⟩
    bv_omega
  · rintro hv k rfl
    cases k <;> exact hv (by decide)

/-- Settles O30: the six rows are those of the six services, each with its vector. -/
theorem trapVectorSelectsTheRoutine : Obligations.TrapVectorSelectsTheRoutine := by
  intro row hrow
  obtain ⟨k, -, rfl⟩ : ∃ k ∈ Service.all, (TrapVectors.lc3.vector k, k.instr) = row := List.mem_map.1 hrow
  refine ⟨fun w hop hv => ?_, fun s ⟨_, htraps⟩ => ?_⟩
  · have hvector : fieldTrapVect8 w = TrapVectors.lc3.vector k := hv
    rw [decode_of_trap hop, hvector, trapOfVector_vector lc3_tables_wf.2]
  · have hwf : s.par.trapVec.wf = true := by rw [htraps]; exact lc3_tables_wf.2
    have hexec := execTrap_vector hwf k
    rwa [htraps] at hexec

/-! ### What no routine touches -/

theorem trapLink_linkRule (s : State) : LinkRule s s.trapLink := by simp [LinkRule, trapLink_reg]

theorem strictLink_strictLinkRule (s : State) : StrictLinkRule s s.strictLink := by
  simp [StrictLinkRule, strictLink_reg]

/-- The link alone keeps the frame of a routine (R161). -/
theorem trapLink_frame (s : State) : RoutineFrame s s.trapLink [7#3] :=
  ⟨trapLink_linkRule s, fun _ hr => trapLink_reg_of_not_linked fun _ => List.ne_of_not_mem_cons hr, rfl, rfl,
    fun _ => rfl, rfl, rfl⟩

/-- Every next state of a TRAP with a service's vector keeps the frame of R170 for any list of registers that holds
R7 and, if the routine wrote it, R0. -/
theorem service_frame {k : Service} {s t : State} {written : List RegIdx} (h : s.trapLink.service k = .next t)
    (h7 : 7#3 ∈ written) (h0 : 0#3 ∉ written → t.reg 0#3 = s.reg 0#3) : RoutineFrame s t written := by
  have effect := service_effect h
  refine ⟨?link, ?regs, effect.pc, effect.cond, fun a => by rw [effect.mem, trapLink_mem],
    (service_script h).trans (trapLink_script s), effect.par⟩
  case link => exact (effect.reg 7#3 fun _ => by decide).trans (trapLink_linkRule s)
  case regs =>
    intro r hr
    by_cases hzero : r = 0#3
    · subst hzero
      exact h0 hr
    · have hseven : r ≠ 7#3 := fun e => hr (e ▸ h7)
      exact (effect.reg r fun _ => hzero).trans (trapLink_reg_of_not_linked fun _ => hseven)

/-- A TRAP is no flag-setter, transfer or store, and reads no cell through `MemRead`. -/
theorem trap_accesses_nothing {i : Instr} (h : i.opcode = .trap) (s : State) :
    flagDest i = none ∧ isTransfer i = false ∧ storedCell s i = none ∧ readsStatus s i = false := by
  cases i <;> cases h <;> exact ⟨rfl, rfl, rfl, rfl⟩

/-- The row of a TRAP in the table of R21 lists R0 for GETC and IN, and R7 where TRAP links. -/
theorem mem_regWrites_of_trap {i : Instr} {p : Params} {r : RegIdx} (h : i.opcode = .trap) (hr : r ∈ regWrites p i) :
    (r = 0#3 ∧ (i = .trapGetc ∨ i = .trapIn)) ∨ (r = 7#3 ∧ p.trapLinksR7 = true) := by
  cases i with
  | trap | trapOut | trapPuts | trapPutsp | trapHalt => exact .inr (by simpa [regWrites, and_comm] using hr)
  | trapGetc | trapIn => cases hl : p.trapLinksR7 <;> simpa [regWrites, hl] using hr
  | _ => cases h

/-- Settles O38: what instructions write by their family (O47 to O49, O51), read for those of opcode TRAP. -/
theorem routinesLeaveTheRestAlone : Obligations.RoutinesLeaveTheRestAlone := by
  intro i s t hop hwf h
  obtain ⟨hflags, htransfer, hstore, hpoll⟩ := trap_accesses_nothing hop s
  have hregs : RegsKept (regWrites s.par i) s t := onlyListedRegistersAreWritten i s t hwf h
  refine ⟨(onlyFlagSettersWriteTheConditionCode i s t h).2 hflags, onlyTransfersWriteThePc.2 i s t htransfer h,
    fun a => by rw [exec_mem_of_no_access h hstore hpoll], fun r hr => hregs r fun hw => ?others,
    fun hgetc hin => hregs _ fun hw => ?zero, fun hlink => hregs _ fun hw => ?seven⟩
  all_goals rcases mem_regWrites_of_trap hop hw with ⟨hzero, hi⟩ | ⟨hseven, hl⟩
  case others.inl => simp [hzero] at hr
  case others.inr => simp [hseven] at hr
  case zero.inl => exact hi.elim hgetc hin
  case zero.inr => exact absurd hseven (by decide)
  case seven.inl => exact absurd hzero (by decide)
  case seven.inr => simp [hlink] at hl

/-! ### An unrecognized vector -/

/-- The abort of a strict machine writes the run, the reason and, where it links first, R7 (R172, R190). -/
theorem strictLink_abort_effect (s : State) (reason : AbortReason) :
    AbortEffect s (s.strictLink.abort reason) reason [7#3] :=
  ⟨rfl, rfl, rfl, rfl, rfl, fun _ hr => strictLink_reg_of_not_linked fun _ => List.ne_of_not_mem_cons hr,
    fun _ => rfl, ⟨rfl, rfl, rfl⟩, ⟨rfl, rfl⟩, rfl, rfl, rfl⟩

/-- Settles O37: an unrecognized vector is one that selects no service, and then there is only the link, or the link
and the abort. -/
theorem unknownTrapResult : Obligations.UnknownTrapResult := by
  refine ⟨fun w hop hv => ?_, fun v s ⟨_, htraps⟩ => ?_, fun v s hv hstrict => ?_, fun v s hv hstrict => ?_⟩
  · have hnone : TrapVectors.lc3.serviceOf (fieldTrapVect8 w) = none := lc3_serviceOf_eq_none_iff.2 hv
    rw [decode_of_trap hop, trapOfVector, hnone]
    rfl
  · rw [unrecognized_iff, htraps, lc3_serviceOf_eq_none_iff]
  · have hexec : exec (.trap v) s = .next s.trapLink := by
      rw [exec, execTrap_of_unrecognized hv, State.trapUnknown, hstrict]
      rfl
    exact ⟨_, hexec, trapLink_frame s, ⟨rfl, rfl, rfl⟩, ⟨rfl, rfl⟩, ⟨rfl, rfl, rfl⟩, rfl⟩
  · have hexec : exec (.trap v) s = .next (s.strictLink.abort .unknownTrapVector) := by
      rw [exec, execTrap_of_unrecognized hv, State.trapUnknown, hstrict]
      rfl
    exact ⟨_, hexec, strictLink_abort_effect s _, strictLink_strictLinkRule s⟩

/-! ### Puts, and a stop signal among them -/

/-- Where the stop signal falls between two puts of a routine, the puts before it are the last (R171, R198). -/
theorem putThen_of_stop {s : State} {bs : List Byte} {later : Nat} {k : State → StepOutcome} (h0 : 0 < s.stopPoint)
    (hputs : s.stopPoint ≤ bs.length) (hmore : s.stopPoint < bs.length + later) :
    s.putThen bs later k = .next (s.put (bs.take s.stopPoint)).interrupt := if_pos ⟨h0, hputs, hmore⟩

/-- Where no stop signal falls between two of its puts, a routine goes on after them. -/
theorem putThen_of_noStopWithin {s : State} {bs : List Byte} {later : Nat} {k : State → StepOutcome}
    (h : NoStopWithin s (bs.length + later)) : s.putThen bs later k = k (s.put bs) :=
  putThen_of_no_stop fun ⟨h0, _, hmore⟩ => h ⟨h0, hmore⟩

/-- A routine that ends with some of its puts and the stop is stopped inside them, whatever it has made of the halt
flag. -/
theorem stoppedInside_of_service {k : Service} {s : State} {halted : Bool} {bs : List Byte}
    (h : s.trapLink.service k =
      .next (State.put { s.trapLink with halted := halted } (bs.take s.stopPoint)).interrupt) :
    StoppedInside s (State.put { s.trapLink with halted := halted } (bs.take s.stopPoint)).interrupt bs :=
  ⟨rfl, rfl, rfl, service_frame h (by simp) fun _ => trapLink_reg_zero s, ⟨rfl, rfl, rfl⟩, rfl, rfl⟩

/-! ### OUT -/

/-- Settles O32: OUT is one put and the flush. -/
theorem outResult : Obligations.OutResult := by
  intro s
  have hexec : exec .trapOut s = .next (s.trapLink.put [lowByte (s.reg 0#3)]).flush := by
    rw [← trapLink_reg_zero s]
    rfl
  exact ⟨_, hexec, rfl, rfl, service_frame (k := .out) hexec (by simp) fun _ => trapLink_reg_zero s,
    ⟨rfl, rfl, rfl⟩, ⟨rfl, rfl, rfl⟩, rfl⟩

/-! ### PUTS and PUTSP -/

/-- The walk goes through cells that are not zero, none of them at the keyboard-status cell, and on from the cell
after them (R165). -/
theorem walkString_of_cellsAt {m : Memory} {kbsr a : Word} {bytes : Word → List Byte} {cs : List Word} {n : Nat}
    {more : List Byte} {e : StringEnd} (h : CellsAt m kbsr a cs) (hn : a.toNat + cs.length + n = 65536)
    (hend : walkString m kbsr bytes n (a + BitVec.ofNat 16 cs.length) = (more, e)) :
    walkString m kbsr bytes (cs.length + n) a = (cs.flatMap bytes ++ more, e) := by
  induction cs generalizing a with
  | nil => simpa using hend
  | cons c cs ih =>
    obtain ⟨hdevice, hcell, hzero, hrest⟩ := h
    rw [List.length_cons] at hn
    have hnext : a + BitVec.ofNat 16 (c :: cs).length = a + 1 + BitVec.ofNat 16 cs.length := by
      rw [List.length_cons]
      bv_omega
    rw [hnext] at hend
    rw [List.length_cons, Nat.succ_add, walkString, if_neg hdevice, hcell, if_neg hzero]
    by_cases hlast : a = 0xFFFF#16
    · obtain ⟨hnil, rfl⟩ : cs.length = 0 ∧ n = 0 := by bv_omega
      obtain rfl := List.eq_nil_of_length_eq_zero hnil
      obtain ⟨rfl, rfl⟩ : [] = more ∧ StringEnd.wrapped = e := Prod.mk.inj hend
      simp [hlast]
    · have hstep : (a + 1).toNat = a.toNat + 1 := by bv_omega
      rw [if_neg hlast, ih hrest (by omega) hend]
      simp

/-- The bytes put for a string of cells stand before those of the walk from the cell after it. -/
theorem stringAt_of_cellsAt {s : State} {bytes : Word → List Byte} {cs : List Word} {a : Word} {more : List Byte}
    {e : StringEnd} (h : CellsAt s.mem s.par.kbsrAddr a cs) (hn : a.toNat + cs.length ≤ 65536)
    (hend : walkString s.mem s.par.kbsrAddr bytes (65536 - (a.toNat + cs.length)) (a + BitVec.ofNat 16 cs.length) =
      (more, e)) : s.stringAt bytes a = (cs.flatMap bytes ++ more, e) := by
  have hfuel : 65536 - a.toNat = cs.length + (65536 - (a.toNat + cs.length)) := by omega
  rw [State.stringAt, hfuel, walkString_of_cellsAt h (by omega) hend]

theorem walkString_device {m : Memory} {kbsr : Word} {bytes : Word → List Byte} {n : Nat} (hn : 0 < n) :
    walkString m kbsr bytes n kbsr = ([], .device) := by
  obtain ⟨n, rfl⟩ := Nat.exists_eq_add_one.2 hn
  simp [walkString]

theorem walkString_terminated {m : Memory} {kbsr a : Word} {bytes : Word → List Byte} {n : Nat} (hn : 0 < n)
    (hdevice : a ≠ kbsr) (hzero : m.read a = 0x0000#16) : walkString m kbsr bytes n a = ([], .terminated) := by
  obtain ⟨n, rfl⟩ := Nat.exists_eq_add_one.2 hn
  simp [walkString, hdevice, hzero]

/-- Where the walk ends right after the cells, with no stop signal among their puts, the routine goes on to its end
(R165, R166, R168). -/
theorem putString_of_cellsAt {s : State} {bytes : Word → List Byte} {cs : List Word} {e : StringEnd}
    (h : CellsAt s.mem s.par.kbsrAddr (s.reg 0#3) cs) (hn : (s.reg 0#3).toNat + cs.length ≤ 65536)
    (hstop : NoStopWithin s (cs.flatMap bytes).length)
    (hend : walkString s.mem s.par.kbsrAddr bytes (65536 - ((s.reg 0#3).toNat + cs.length))
      (s.reg 0#3 + BitVec.ofNat 16 cs.length) = ([], e)) :
    s.putString bytes = (s.put (cs.flatMap bytes)).finishString e := by
  have hstring : s.stringAt bytes (s.reg 0#3) = (cs.flatMap bytes, e) := by
    rw [stringAt_of_cellsAt h hn hend, List.append_nil]
  simp only [State.putString, hstring]
  exact putThen_of_noStopWithin hstop

/-- A stop signal among the puts of the cells stops the routine there, however the string goes on (R171). -/
theorem putString_of_stop {s : State} {bytes : Word → List Byte} {cs : List Word}
    (h : CellsAt s.mem s.par.kbsrAddr (s.reg 0#3) cs) (hn : (s.reg 0#3).toNat + cs.length ≤ 65536)
    (h0 : 0 < s.stopPoint) (hmore : s.stopPoint < (cs.flatMap bytes).length) :
    s.putString bytes = .next (s.put ((cs.flatMap bytes).take s.stopPoint)).interrupt := by
  obtain ⟨more, e, hstring⟩ : ∃ more e, s.stringAt bytes (s.reg 0#3) = (cs.flatMap bytes ++ more, e) :=
    ⟨_, _, stringAt_of_cellsAt h hn rfl⟩
  have hall : s.stopPoint < (cs.flatMap bytes ++ more).length := by
    rw [List.length_append]
    omega
  simp only [State.putString, hstring]
  rw [putThen_of_stop h0 hall.le hall, List.take_append_of_le_length hmore.le]

/-- A routine that puts a string does so as R166 and R168 say, given the bytes of each cell. -/
theorem stringRoutine_of_putString {k : Service} {bytes : Word → List Byte}
    (hk : ∀ s : State, s.service k = s.putString bytes) : StringRoutine k.instr bytes := by
  intro s cs hcells hn hstop
  have hr0 : s.trapLink.reg 0#3 = s.reg 0#3 := trapLink_reg_zero s
  have hexec {e : StringEnd} (hend : walkString s.mem s.par.kbsrAddr bytes (65536 - ((s.reg 0#3).toNat + cs.length))
      (s.reg 0#3 + BitVec.ofNat 16 cs.length) = ([], e)) :
      exec k.instr s = (s.trapLink.put (cs.flatMap bytes)).finishString e := by
    rw [exec_service, hk]
    rw [← hr0] at hcells hn hend
    exact putString_of_cellsAt hcells hn hstop hend
  refine ⟨fun hin hdevice hzero => ?_, fun hin hdevice => ?_, fun hout => ?_⟩
  · have hnext := hexec (walkString_terminated (Nat.sub_pos_of_lt hin) hdevice hzero)
    exact ⟨_, hnext, rfl, rfl, service_frame ((exec_service k s).symm.trans hnext) (by simp) fun _ => hr0,
      ⟨rfl, rfl, rfl⟩, ⟨rfl, rfl, rfl⟩, rfl⟩
  · exact hexec (e := .device) (by rw [hdevice, walkString_device (Nat.sub_pos_of_lt hin)])
  · exact hexec (e := .wrapped) (by rw [hout]; rfl)

/-- A routine that puts a string is stopped inside the puts of its cells as R171 says. -/
theorem stoppedInside_of_putString {k : Service} {bytes : Word → List Byte} {s : State} {cs : List Word}
    (hk : ∀ s : State, s.service k = s.putString bytes) (hcells : CellsAt s.mem s.par.kbsrAddr (s.reg 0#3) cs)
    (hn : (s.reg 0#3).toNat + cs.length ≤ 65536) (h0 : 0 < s.stopPoint)
    (hmore : s.stopPoint < (cs.flatMap bytes).length) :
    ∃ t, exec k.instr s = .next t ∧ t.halted = s.halted ∧ StoppedInside s t (cs.flatMap bytes) := by
  have hservice : s.trapLink.service k =
      .next (s.trapLink.put ((cs.flatMap bytes).take s.stopPoint)).interrupt := by
    rw [hk]
    rw [← trapLink_reg_zero s] at hcells hn
    exact putString_of_stop hcells hn h0 hmore
  exact ⟨_, (exec_service k s).trans hservice, rfl, stoppedInside_of_service hservice⟩

/-- Settles O33: PUTS puts the low byte of each cell. -/
theorem putsResult : Obligations.PutsResult := stringRoutine_of_putString (k := .puts) fun _ => rfl

/-- Settles O34: PUTSP puts the packed bytes of each cell. -/
theorem putspResult : Obligations.PutspResult := stringRoutine_of_putString (k := .putsp) fun _ => rfl

/-! ### The character GETC and IN take -/

theorem consume_of_pending {s : State} {b : Byte} {rest : List Byte} (h : s.inq = b :: rest) :
    s.consume = some (zext16 b, { s with inq := rest }) := by rw [State.consume, h]

theorem consume_of_ended {s : State} (hq : s.inq = []) (hc : s.closed = true) :
    s.consume = some (s.par.eofWord, s) := by rw [State.consume, hq, hc]

theorem consume_of_blocked {s : State} (hq : s.inq = []) (hc : s.closed = false) : s.consume = none := by
  rw [State.consume, hq, hc]

/-- A consume that need not wait takes the first pending byte, if there is one (R37). -/
theorem consume_of_available {s : State} (h : s.inq ≠ [] ∨ s.closed = true) :
    ∃ v, s.consume = some (v, { s with inq := s.inq.tail }) := by
  rcases consume_cases s with ⟨b, rest, hq, e⟩ | ⟨hq, -, e⟩ | ⟨hq, hc, -⟩
  · exact ⟨_, by rw [e, hq, List.tail_cons]⟩
  · exact ⟨_, by rw [e, hq, List.tail_nil, ← hq]⟩
  · simp [hq, hc] at h

theorem consumeGetc_of_consume {s u : State} {v : Word} (h : s.consume = some (v, u)) :
    s.consumeGetc = { u.setReg 0#3 v with wait := .idle } := by rw [State.consumeGetc, h]

theorem consumeGetc_of_blocked {s : State} (hq : s.inq = []) (hc : s.closed = false) :
    s.consumeGetc = { s with wait := .getc } := by rw [State.consumeGetc, consume_of_blocked hq hc]

theorem consumeIn_of_consume {s u : State} {v : Word} (hs : s.stopsBeforeEcho = false) (h : s.consume = some (v, u)) :
    s.consumeIn = { (u.put [lowByte v]).setReg 0#3 v with wait := .idle } := by simp [State.consumeIn, h, hs]

theorem consumeIn_of_stop {s u : State} {v : Word} (hs : s.stopsBeforeEcho = true) (h : s.consume = some (v, u)) :
    s.consumeIn = u.interrupt := by simp [State.consumeIn, h, hs]

theorem consumeIn_of_blocked {s : State} (hq : s.inq = []) (hc : s.closed = false) :
    s.consumeIn = { s with wait := .input } := by rw [State.consumeIn, consume_of_blocked hq hc]

/-! ### GETC -/

theorem execGetc_eq (s : State) : exec .trapGetc s = .next s.trapLink.consumeGetc := rfl

/-- Settles O31: one clause for each answer of the consume. -/
theorem getcResult : Obligations.GetcResult := by
  refine ⟨fun s b rest hq => ?_, fun s hq hc => ?_, fun s hq hc => ?_⟩
  · have hexec := execGetc_eq s
    rw [consumeGetc_of_consume (consume_of_pending (s := s.trapLink) hq), zext16_eq_append] at hexec
    exact ⟨_, hexec, setReg_reg_same _ _ _, rfl, rfl, rfl, service_frame (k := .getc) hexec (by simp) (by simp),
      ⟨rfl, rfl⟩, ⟨rfl, rfl, rfl⟩, rfl⟩
  · have hexec := execGetc_eq s
    rw [consumeGetc_of_consume (consume_of_ended (s := s.trapLink) hq hc)] at hexec
    exact ⟨_, hexec, setReg_reg_same _ _ _, ⟨rfl, rfl, rfl⟩, service_frame (k := .getc) hexec (by simp) (by simp),
      ⟨rfl, rfl⟩, ⟨rfl, rfl, rfl⟩, rfl⟩
  · have hexec := execGetc_eq s
    rw [consumeGetc_of_blocked (s := s.trapLink) hq hc] at hexec
    exact ⟨_, hexec, rfl, ⟨rfl, rfl, rfl⟩, service_frame (k := .getc) hexec (by simp) fun _ => trapLink_reg_zero s,
      ⟨rfl, rfl⟩, ⟨rfl, rfl, rfl⟩⟩

/-! ### IN -/

/-- IN with no stop signal among its puts goes on to its consume, the prompt put (R167). -/
theorem execIn_of_noStopWithin {s : State} (h : NoStopWithin s (s.par.inPrompt.length + 1)) :
    exec .trapIn s = .next (s.trapLink.put s.par.inPrompt).consumeIn :=
  putThen_of_noStopWithin (s := s.trapLink) (k := fun t => .next t.consumeIn) h

/-- IN is stopped among the puts of its prompt, or after them with the echo still to come (R171). -/
theorem execIn_of_stop {s : State} (h0 : 0 < s.stopPoint) (hputs : s.stopPoint ≤ s.par.inPrompt.length) :
    exec .trapIn s = .next (s.trapLink.put (s.par.inPrompt.take s.stopPoint)).interrupt :=
  putThen_of_stop (s := s.trapLink) (later := 1) (k := fun t => .next t.consumeIn) h0 hputs (Nat.lt_succ_of_le hputs)

/-- A signal that is to fall before the echo falls nowhere else (R198). -/
theorem noStopWithin_of_stopsBeforeEcho {s : State} (h : s.stopsBeforeEcho = true) (n : Nat) : NoStopWithin s n := by
  rintro ⟨h0, -⟩
  unfold State.stopPoint at h0
  split at h0
  next hscript => simp [State.stopsBeforeEcho, hscript] at h
  next => exact absurd h0 (Nat.lt_irrefl 0)

/-- Settles O35: one clause for each answer of the consume after the prompt. -/
theorem inResult : Obligations.InResult := by
  refine ⟨fun s b rest hstop hecho hq => ?_, fun s hstop hecho hq hc => ?_, fun s hstop hq hc => ?_⟩
  · have hexec := execIn_of_noStopWithin hstop
    rw [consumeIn_of_consume (s := s.trapLink.put s.par.inPrompt) hecho (consume_of_pending hq), lowByte_zext16,
      zext16_eq_append] at hexec
    exact ⟨_, hexec, setReg_reg_same _ _ _, rfl, rfl, rfl, rfl, rfl,
      service_frame (k := .input) hexec (by simp) (by simp), ⟨rfl, rfl, rfl⟩, rfl⟩
  · have hexec := execIn_of_noStopWithin hstop
    rw [consumeIn_of_consume (s := s.trapLink.put s.par.inPrompt) hecho (consume_of_ended hq hc)] at hexec
    exact ⟨_, hexec, setReg_reg_same _ _ _, ⟨rfl, rfl, rfl⟩, rfl, rfl,
      service_frame (k := .input) hexec (by simp) (by simp), ⟨rfl, rfl, rfl⟩, rfl⟩
  · have hexec := execIn_of_noStopWithin hstop
    rw [consumeIn_of_blocked (s := s.trapLink.put s.par.inPrompt) hq hc] at hexec
    exact ⟨_, hexec, rfl, ⟨rfl, rfl, rfl⟩, rfl, rfl,
      service_frame (k := .input) hexec (by simp) fun _ => trapLink_reg_zero s, ⟨rfl, rfl, rfl⟩⟩

/-! ### HALT -/

/-- HALT stopped inside its notice, the flag as `haltFlagEarly` says (R171, log entry 11). -/
theorem execHalt_of_stop {s : State} (h0 : 0 < s.stopPoint) (hmore : s.stopPoint < s.par.haltNotice.length) :
    exec .trapHalt s = .next (State.put { s.trapLink with halted := s.halted || s.par.haltFlagEarly }
      (s.par.haltNotice.take s.stopPoint)).interrupt :=
  putThen_of_stop (s := { s.trapLink with halted := s.halted || s.par.haltFlagEarly }) (later := 0)
    (k := fun t => .next { t with halted := true, run := .halted }) h0 hmore.le hmore

/-- Settles O36: the notice is put, the run is HALTED, and an ended run stays. -/
theorem haltResult : Obligations.HaltResult := by
  intro s hstop
  have hexec : exec .trapHalt s = .next { s.trapLink.put s.par.haltNotice with halted := true, run := .halted } :=
    (serviceHalt_cases s.trapLink).resolve_left fun ⟨h0, hmore, _⟩ => hstop ⟨h0, hmore⟩
  refine ⟨_, hexec, rfl, rfl, rfl, rfl, service_frame (k := .halt) hexec (by simp) fun _ => trapLink_reg_zero s,
    ⟨rfl, rfl, rfl⟩, rfl, rfl, fun u hu => ?_, fun _ _ => rfl⟩
  rw [step_of_ended (by simp)] at hu
  cases hu
  rfl

/-! ### A stop signal between two puts -/

/-- Settles O42: the puts of each of the four routines are cut where the signal falls; before the echo of IN the
consume has taken its character. -/
theorem stopBetweenTwoPuts : Obligations.StopBetweenTwoPuts := by
  refine ⟨fun s cs hcells hn h0 => ⟨fun hmore => ?puts, fun hmore => ?putsp⟩, fun s h0 hputs => ?prompt,
    fun s hecho hinput => ?echo, fun s h0 hmore => ?notice⟩
  case puts => exact stoppedInside_of_putString (k := .puts) (fun _ => rfl) hcells hn h0 hmore
  case putsp => exact stoppedInside_of_putString (k := .putsp) (fun _ => rfl) hcells hn h0 hmore
  case prompt =>
    have hexec := execIn_of_stop h0 hputs
    exact ⟨_, hexec, rfl, stoppedInside_of_service (k := .input) hexec⟩
  case echo =>
    obtain ⟨v, hconsume⟩ := consume_of_available (s := s.trapLink.put s.par.inPrompt) hinput
    have hexec := execIn_of_noStopWithin (noStopWithin_of_stopsBeforeEcho hecho _)
    rw [consumeIn_of_stop (s := s.trapLink.put s.par.inPrompt) hecho hconsume] at hexec
    exact ⟨_, hexec, rfl, rfl, rfl, rfl, rfl, rfl, rfl,
      service_frame (k := .input) hexec (by simp) fun _ => trapLink_reg_zero s, rfl, rfl⟩
  case notice =>
    have hexec := execHalt_of_stop h0 hmore
    exact ⟨_, hexec, rfl, stoppedInside_of_service (k := .halt) hexec⟩

end Sys2Proof.Machine
end

section
/-!
SUPPORT. The statement of RES and RTI (46_reserved.md): the decoding of their opcodes, and the abort as an end of the
run that no step leaves.
-/

namespace Sys2Proof.Machine

open Sys2Proof.Claims

theorem decode_of_res {w : Word} (h : fieldOpcode w = 0xD#4) : decode w = .res := by
  rw [decode, decodeWith, lc3_opcodeOf_of_field (o := .res) h]

theorem decode_of_rti {w : Word} (h : fieldOpcode w = 0x8#4) : decode w = .rti := by
  rw [decode, decodeWith, lc3_opcodeOf_of_field (o := .rti) h]

/-- The abort alone writes the run and the reason (R190). -/
theorem abort_effect (s : State) (reason : AbortReason) : AbortEffect s (s.abort reason) reason [] :=
  ⟨rfl, rfl, rfl, rfl, rfl, fun r _ => abort_reg s reason r, fun _ => rfl, ⟨rfl, rfl, rfl⟩, ⟨rfl, rfl⟩, rfl, rfl, rfl⟩

/-- An ended run has no next state but its own (R116). -/
theorem eq_of_step_of_ended {s u : State} (hs : s.ended) (h : step s = .next u) : u = s :=
  Host.Outcome.next.inj (h.symm.trans (step_of_ended hs))

/-- An instruction that aborts at once gives the state of the abort, which no step leaves (R182). -/
theorem abort_without_way_on {i : Instr} {s : State} {reason : AbortReason} (h : exec i s = .next (s.abort reason)) :
    ∃ t, exec i s = .next t ∧ AbortEffect s t reason [] ∧ ∀ u, step t = .next u → u = t :=
  have hended : (s.abort reason).ended := by simp
  ⟨_, h, abort_effect s reason, fun _ => eq_of_step_of_ended hended⟩

/-- Settles O40: bits 15-12 alone select RES and RTI, and both are the abort. -/
theorem undefinedOpcodesAbort : Obligations.UndefinedOpcodesAbort := by
  refine ⟨fun w hw => decode_of_res hw, fun w hw => decode_of_rti hw, fun s => ?res, fun s => ?rti⟩
  case res => exact abort_without_way_on (i := .res) (s := s) rfl
  case rti => exact abort_without_way_on (i := .rti) (s := s) rfl

end Sys2Proof.Machine
end

section
/-!
SUPPORT. The statements of the exceptions and of reset (60_exceptions.md, 70_reset_and_hazards.md): which instructions
are refused and which abort, the stop signal that takes effect after a step, what the host observes at each end, and the
boot sequence.
-/

namespace Sys2Proof.Machine

open Sys2Proof.Claims

/-! ### Refusals -/

/-- A string routine answers a next state or one of the two refusals of R165. -/
theorem putString_next_or_refused (s : State) (bytes : Word → List Byte) :
    (∃ t, s.putString bytes = .next t) ∨
      (s.putString bytes = .refused .trapStringDevice ∨ s.putString bytes = .refused .trapStringWrap) := by
  rcases putString_cases s bytes with ⟨-, -, e⟩ | ⟨-, e⟩ | ⟨-, e⟩ | ⟨-, e⟩
  · exact .inl ⟨_, e⟩
  · exact .inl ⟨_, e⟩
  · exact .inr (.inl e)
  · exact .inr (.inr e)

theorem serviceIn_next (s : State) : ∃ t, s.serviceIn = .next t := by
  rcases putThen_cases s s.par.inPrompt 1 (fun t => .next t.consumeIn) with ⟨-, -, -, e⟩ | e
  · exact ⟨_, e⟩
  · exact ⟨_, e⟩

theorem serviceHalt_next (s : State) : ∃ t, s.serviceHalt = .next t := by
  rcases serviceHalt_cases s with ⟨-, -, e⟩ | e
  · exact ⟨_, e⟩
  · exact ⟨_, e⟩

/-- Settles O56: only the string routines can be refused; a well-formed generic TRAP runs no routine, and every other
meaning is written as a next state. -/
theorem onlyStringRoutinesAreRefused : Obligations.OnlyStringRoutinesAreRefused := by
  intro i s hwf
  cases i with
  | trapPuts => exact (putString_next_or_refused s.trapLink putsBytes).imp_right fun h => ⟨.inl rfl, h⟩
  | trapPutsp => exact (putString_next_or_refused s.trapLink putspBytes).imp_right fun h => ⟨.inr rfl, h⟩
  | trapIn => exact .inl (serviceIn_next s.trapLink)
  | trapHalt => exact .inl (serviceHalt_next s.trapLink)
  | trap v =>
    have hv : Unrecognized s v := unrecognized_iff.2 (Option.isNone_iff_eq_none.1 hwf)
    exact .inl ⟨_, execTrap_of_unrecognized hv⟩
  | jsrr base => exact .inl ⟨_, execJsrr_eq_setPc base s⟩
  | _ => exact .inl ⟨_, rfl⟩

/-! ### Aborts -/

/-- No service routine aborts (R191). -/
theorem service_run_ne_aborted {k : Service} {s t : State} (hs : s.run ≠ .aborted) (h : s.service k = .next t) :
    t.run ≠ .aborted := by
  by_cases hk : k = .halt
  · subst hk
    rcases serviceHalt_cases s with ⟨-, -, e⟩ | e <;> cases e.symm.trans h
    · simp
    · simp
  · rcases (service_effect h).goesOn hk with e | e <;> simp [e, hs]

/-- TRAP aborts only in strict mode and only where its vector is unrecognized (R172). -/
theorem execTrap_aborted {v : BitVec 8} {s t : State} (hs : s.run ≠ .aborted) (h : execTrap v s = .next t)
    (ht : t.run = .aborted) : s.par.strictTrap = true ∧ Unrecognized s v := by
  rcases execTrap_cases v s with ⟨k, -, e⟩ | ⟨hv, hstrict, -⟩ | ⟨-, -, e⟩
  · exact absurd ht (service_run_ne_aborted (s := s.trapLink) hs (e.symm.trans h))
  · exact ⟨hstrict, unrecognized_iff.2 hv⟩
  · cases e.symm.trans h
    exact absurd ht hs

theorem strictLink_of_not_strictTrapLinks {s : State} (h : s.par.strictTrapLinks = false) : s.strictLink = s := by
  simp [State.strictLink, h, setReg_reg_self]

/-- The abort of a strict machine writes R7 only where R161 is followed over R194 (log entry 12). -/
theorem strictLink_abort_effect_of_links (s : State) (reason : AbortReason) :
    AbortEffect s (s.strictLink.abort reason) reason (if s.par.strictTrapLinks then [7#3] else []) := by
  cases hl : s.par.strictTrapLinks with
  | true => exact strictLink_abort_effect s reason
  | false =>
    rw [strictLink_of_not_strictTrapLinks hl]
    exact abort_effect s reason

/-- Settles O60: of the families of instructions only an unrecognized TRAP and the undefined opcodes reach ABORTED, each
by the abort of its own. -/
theorem abortsWriteOnlyTheLink : Obligations.AbortsWriteOnlyTheLink := by
  intro i s t hs h ht
  cases exec_effect h with
  | flagged _ _ hu | store _ _ _ hu => exact absurd (hu.runKept.2.1.symm.trans ht) hs
  | transfer | linked | ignored => exact absurd ht hs
  | service _ _ hk => exact absurd ht (service_run_ne_aborted (s := s.trapLink) hs hk)
  | strict v hi =>
    subst hi
    obtain ⟨hstrict, hv⟩ := execTrap_aborted hs h ht
    exact .inr (.inr ⟨hstrict, ⟨v, rfl, hv⟩, strictLink_abort_effect_of_links s _, strictLink_strictLinkRule s⟩)
  | undefined reason hi =>
    rcases hi with rfl | rfl <;> cases h
    · exact .inl ⟨rfl, abort_effect s _⟩
    · exact .inr (.inl ⟨rfl, abort_effect s _⟩)

/-! ### The stop signal during a step -/

/-- A stop signal for the core's step is no move of the host. -/
theorem hostMove_of_stopSignal {s : State} {m : HostMove} {rest : List HostMove} (hs : s.script = m :: rest)
    (hm : (∃ n, m = .stopAfter n) ∨ m = .stopBeforeEcho) : s.hostMove = none := by
  rw [State.hostMove, hs]
  rcases hm with ⟨n, rfl⟩ | rfl <;> rfl

/-- The turn of a step during which a stop was signalled ends a run that still goes on (R198). -/
theorem endTurn_of_stopSignal {t : State} {m : HostMove} {rest : List HostMove} (ht : t.script = m :: rest)
    (hm : (∃ n, m = .stopAfter n) ∨ m = .stopBeforeEcho) :
    t.endTurn = if t.run = .running then State.interrupt { t with script := rest } else { t with script := rest } := by
  rw [State.endTurn, ht]
  rcases hm with ⟨n, rfl⟩ | rfl <;> rfl

/-- Settles O43: no instruction touches the script, so the signal is still there when the turn ends. -/
theorem stopTakesEffectAfterTheStep : Obligations.StopTakesEffectAfterTheStep := by
  intro s t m rest hr hw hs hm h
  have hscript : t.script = m :: rest := by rw [exec_script h, fetch_script, hs]
  have hstep : step s = .next t.endTurn := by
    rw [step_of_coreTurn hr (hostMove_of_stopSignal hs hm), State.coreTurn, hw]
    exact congrArg (onNext State.endTurn) h
  rw [hstep, endTurn_of_stopSignal hscript hm]
  exact ⟨fun ht => by rw [if_pos ht]; rfl, fun ht => by rw [if_neg ht]⟩

/-! ### What the host observes -/

/-- Settles O44: the three ends of R200, each with its list test read as a proposition. -/
theorem observedOutputAtEachEnd : Obligations.ObservedOutputAtEachEnd := by
  refine fun s o => ⟨fun h => ?halted, fun h => ?stopped⟩
  case halted => rw [State.mayObserve, h, beq_iff_eq]
  case stopped => rcases h with h | h <;> simp [State.mayObserve, h]

/-! ### The boot sequence -/

/-- The loader refuses the image, or changes memory alone (R65). -/
theorem loadImage_cases (s : State) (image : List Byte) :
    (∃ m, s.loadImage image = .next { s with mem := m }) ∨ ∃ r, s.loadImage image = .refused r := by
  unfold State.loadImage
  split
  · exact .inr ⟨_, rfl⟩
  · split
    · exact .inr ⟨_, rfl⟩
    · split
      · exact .inl ⟨_, rfl⟩
      · exact .inr ⟨_, rfl⟩

/-- With one readable image, boot ends as the loader on the start state does (R210). -/
theorem boot_image_cases (p : Params) (v : InitValues) (image : List Byte) :
    (∃ m, (State.start p v).loadImage image = .next { State.start p v with mem := m } ∧
        boot p v [some image] = .started { State.start p v with mem := m }) ∨
      ∃ r, (State.start p v).loadImage image = .refused r ∧ boot p v [some image] = .refused r := by
  rcases loadImage_cases (State.start p v) image with ⟨m, h⟩ | ⟨r, h⟩
  · exact .inl ⟨m, h, by rw [boot, h]⟩
  · exact .inr ⟨r, h, by rw [boot, h]⟩

theorem boot_of_length_ne_one {p : Params} {v : InitValues} {args : List (Option (List Byte))}
    (h : args.length ≠ 1) : boot p v args = .exited 2 := by
  unfold boot
  split
  · exact absurd rfl h
  · rfl

/-- Settles O59: by the number of arguments and, for one image, by what the loader makes of it. -/
theorem bootStartsAtPcStart : Obligations.BootStartsAtPcStart := by
  refine ⟨fun p v args => boot_of_length_ne_one, fun p v => rfl, fun p v image s => ?started,
    fun p v image r => ?refused, fun p v image status => ?exited, fun p v image s h => ?state⟩
  all_goals rcases boot_image_cases p v image with ⟨m, hload, hboot⟩ | ⟨r, hload, hboot⟩
  case started.inl | started.inr | refused.inl | refused.inr => simp [hload, hboot]
  case exited.inl | exited.inr => simp [hboot]
  case state.inl =>
    cases hboot.symm.trans h
    exact ⟨rfl, rfl, rfl⟩
  case state.inr => cases hboot.symm.trans h

end Sys2Proof.Machine
end
